-- ==== Sys2Proof/Word.lean ====
section
/-! DEFINITION. The word types of the block (00_scope.md R8, R10) and the capacity of the port registry. -/

namespace Sys2Proof

/-- One byte of client memory, one lane of a FIFO word. -/
abbrev Byte := BitVec 8

/-- One FIFO word, one register-bus value, one command word: `WORD_BYTES = 4` bytes (R8, R53). -/
abbrev Word := BitVec 32

/-- `N_PORTS`, the capacity of the port registry (R8). -/
abbrev nPorts : Nat := 4

/-- A port id that can be registered: an index of `BASE` and of the per-port registers (10_state.md R21, R27). -/
abbrev Port := Fin nPorts

/-- The port field of a request, 8 bits, so that a request can name an id out of range (R9). -/
abbrev PortField := BitVec 8

end Sys2Proof
end

