-- ==== Sys2Proof/Config.lean ====
section
/-! DEFINITION. What an implementation fixes and the spec leaves OPEN (00_scope.md R8), and the free value of a
register read (20_memory.md R54). No value is chosen here: both constants are opaque and have no body. -/

namespace Sys2Proof

/-- The eight UART_DM registers the block accesses (10_state.md R33). -/
inductive Reg where
  | sr | isr | cr | tf | rf | nchar | rxwm | rxocc
deriving DecidableEq, Repr

/-- The OPEN parameters of 00_scope.md R8, one field each, under the spec's names. -/
structure Params where
  /-- `ADDR_W`, the width of bus addresses, port bases and request operands. -/
  addrW : Nat
  /-- `NCHAR_W`, the width of the count field of the character-count register. -/
  ncharW : Nat
  offSR : Nat
  offISR : Nat
  offCR : Nat
  offTF : Nat
  offRF : Nat
  offNCHAR : Nat
  offRXWM : Nat
  offRXOCC : Nat
  srOverrun : Fin 32
  srRxrdy : Fin 32
  srTxrdy : Fin 32
  srTxemt : Fin 32
  isrTxready : Fin 32
  rxoccMask : Word
  cmdResetRx : Word
  cmdResetTx : Word
  cmdResetErr : Word
  cmdForceStale : Word
  cmdResetStale : Word
  cmdResetTxready : Word
  /-- `RXWM_REARM`, the value that re-arms the RX watermark. -/
  rxwmRearm : Word
deriving DecidableEq, Repr

/-- `OFF_X`, the byte offset of register `X` from a port's base. -/
def Params.off (c : Params) : Reg → Nat
  | .sr => c.offSR
  | .isr => c.offISR
  | .cr => c.offCR
  | .tf => c.offTF
  | .rf => c.offRF
  | .nchar => c.offNCHAR
  | .rxwm => c.offRXWM
  | .rxocc => c.offRXOCC

/-- The eight offsets. -/
def Params.offsets (c : Params) : List Nat :=
  [c.offSR, c.offISR, c.offCR, c.offTF, c.offRF, c.offNCHAR, c.offRXWM, c.offRXOCC]

/-- The six command values. -/
def Params.commands (c : Params) : List Word :=
  [c.cmdResetRx, c.cmdResetTx, c.cmdResetErr, c.cmdForceStale, c.cmdResetStale, c.cmdResetTxready]

/-- No two entries are equal. -/
def distinct {α : Type} [DecidableEq α] : List α → Bool
  | [] => true
  | x :: xs => !xs.contains x && distinct xs

/-- The constraints R8 puts on the parameters: offsets multiples of 4 and pairwise distinct, commands pairwise
distinct, a non-zero occupancy mask. DEDUCED (log entry 3): an operand holds `B[31:0]`, so `ADDR_W` is at least 32
(30_encoding.md R74); an offset is an address of the bus; the count is zero-extended to 32 bits, so `NCHAR_W` is
1 to 32 (10_state.md R33). -/
def Params.wf (c : Params) : Bool :=
  decide (32 ≤ c.addrW) && decide (1 ≤ c.ncharW) && decide (c.ncharW ≤ 32) &&
  c.offsets.all (fun o => o % 4 == 0) && c.offsets.all (fun o => decide (o < 2 ^ c.addrW)) && distinct c.offsets &&
  distinct c.commands && c.rxoccMask != 0

/-- An instantiation of the parameters that keeps R8's constraints. The field values written here only show that one
exists; `Config.legal` is opaque and none of them can be proved of it. -/
structure LegalParams where
  params : Params :=
    { addrW := 32, ncharW := 32, offSR := 0, offISR := 4, offCR := 8, offTF := 12, offRF := 16, offNCHAR := 20,
      offRXWM := 24, offRXOCC := 28, srOverrun := 0, srRxrdy := 1, srTxrdy := 2, srTxemt := 3, isrTxready := 4,
      rxoccMask := 1, cmdResetRx := 0, cmdResetTx := 1, cmdResetErr := 2, cmdForceStale := 3, cmdResetStale := 4,
      cmdResetTxready := 5, rxwmRearm := 0 }
  legal : params.wf = true := by decide
deriving Inhabited

/-- The implementation's parameters: uninterpreted (93_implementation_defined.md section 3; log entry 3). -/
opaque Config.legal : LegalParams

/-- The implementation's parameters, as plain data. -/
def Config.params : Params := Config.legal.params

/-- The value the device gives to the n-th register read when no answer is scripted: a free draw of 32 bits
(20_memory.md R54; log entry 2). -/
opaque Config.freeAnswer : Nat → Word

end Sys2Proof
end

