-- ==== Sys2Proof/Syntax.lean ====
section
/-! DEFINITION. The requests of the block as syntax (30_encoding.md R70 to R76, R81): one constructor of `Instr` per row
of the opcode table. -/

namespace Sys2Proof

/-- The operation of a request, as `ACTIVE` holds it (30_encoding.md R72, 10_state.md R23). -/
inductive Op where
  | init | putChar | getChar | write | lookup
deriving DecidableEq, Repr

/-- A decoded request. Operands the block ignores for an opcode (R74) are no part of its term. -/
inductive Instr where
  /-- INIT (R100): `A` is the base, `B` the clock-select base the block ignores (R103). -/
  | init (port : PortField) (uartBase : Nat) (clkBase : Nat)
  /-- PUT_CHAR (R142). -/
  | putc (port : PortField) (byte : Byte)
  /-- GET_CHAR (R170); `wait` is the WAIT bit. -/
  | getc (port : PortField) (wait : Bool)
  /-- WRITE (R140): `A` is the buffer, `len` is `B[31:0]`, read as signed (R74). -/
  | write (port : PortField) (buf : Nat) (len : Word)
  /-- LOOKUP (R106). -/
  | lookup (port : PortField)
deriving DecidableEq, Repr

/-- The operation of an instruction (R72). -/
def Instr.op : Instr → Op
  | .init _ _ _ => .init
  | .putc _ _ => .putChar
  | .getc _ _ => .getChar
  | .write _ _ _ => .write
  | .lookup _ => .lookup

/-- The PORT field of an instruction (R75). -/
def Instr.port : Instr → PortField
  | .init p _ _ => p
  | .putc p _ => p
  | .getc p _ => p
  | .write p _ _ => p
  | .lookup p => p

/-- The three words of a request as the client presents them (R70). -/
structure Request where
  cw : Word
  a : Nat
  b : Nat
deriving DecidableEq, Repr

/-- The textual forms of R81, the pseudo-requests among them. -/
inductive Asm where
  | init (port : PortField) (uartBase clkBase : Nat)
  | putc (port : PortField) (byte : Byte)
  | getc (port : PortField)
  | getcW (port : PortField)
  | write (port : PortField) (addr : Nat) (len : Int)
  | lookup (port : PortField)
  | getcNb (port : PortField)
  | newline (port : PortField)
deriving DecidableEq, Repr

end Sys2Proof
end

