-- ==== Sys2Proof/WellFormed.lean ====
section
/-! DEFINITION. Which terms of `Instr` a request can hold: operands `A` and `B` are `ADDR_W` bits (30_encoding.md R70).
Every value of PORT, BYTE, WAIT fits its field by its type. -/

namespace Sys2Proof

/-- An operand fits `ADDR_W` bits (R70). -/
def fitsAddr (addrW n : Nat) : Bool := decide (n < 2 ^ addrW)

/-- The operands of the instruction fit the request's words, for address width `addrW`. -/
def Instr.wf (addrW : Nat) : Instr → Bool
  | .init _ uartBase clkBase => fitsAddr addrW uartBase && fitsAddr addrW clkBase
  | .putc _ _ => true
  | .getc _ _ => true
  | .write _ buf len => fitsAddr addrW buf && fitsAddr addrW len.toNat
  | .lookup _ => true

end Sys2Proof
end

