-- ==== Sys2Proof/Decode.lean ====
section
/-! DEFINITION. Decoding of the three words of a request (30_encoding.md R71 to R79), total and rejecting by name, and the
encoder written from the same fields. -/

namespace Sys2Proof

/-! ## Fields of the command word (R71) -/

def CW.op (cw : Word) : BitVec 3 := cw.extractLsb' 0 3
def CW.wait (cw : Word) : Bool := cw.getLsbD 3
def CW.rsv0 (cw : Word) : BitVec 4 := cw.extractLsb' 4 4
def CW.port (cw : Word) : PortField := cw.extractLsb' 8 8
def CW.byte (cw : Word) : Byte := cw.extractLsb' 16 8
def CW.rsv1 (cw : Word) : BitVec 8 := cw.extractLsb' 24 8

/-- The opcode map (R72); `none` is a reserved opcode. -/
def opOfBits (b : BitVec 3) : Option Op :=
  match b.toNat with
  | 0 => some .init
  | 1 => some .putChar
  | 2 => some .getChar
  | 3 => some .write
  | 4 => some .lookup
  | _ => none

/-- Why a command word is illegal: the four cases of R77. -/
inductive Illegal where
  /-- `OP` is 101, 110 or 111. -/
  | reservedOp
  /-- `RSV0` or `RSV1` is non-zero. -/
  | reservedField
  /-- `WAIT` is 1 for an opcode other than GET_CHAR. -/
  | waitBit
  /-- `BYTE` is non-zero for an opcode other than PUT_CHAR. -/
  | byteField
deriving DecidableEq, Repr

/-- What the decoder answers: an instruction, or the name of what is illegal. -/
inductive Decoded where
  | legal (i : Instr)
  | illegal (why : Illegal)
deriving DecidableEq, Repr

/-- The fields and operands of a legal request of operation `op` (R74, R75). The request's operands are `ADDR_W` bits
(R70), so higher bits of a presented number do not exist (log entry 4). -/
def fieldsOf (addrW : Nat) (r : Request) : Op → Instr
  | .init => .init (CW.port r.cw) (r.a % 2 ^ addrW) (r.b % 2 ^ addrW)
  | .putChar => .putc (CW.port r.cw) (CW.byte r.cw)
  | .getChar => .getc (CW.port r.cw) (CW.wait r.cw)
  | .write => .write (CW.port r.cw) (r.a % 2 ^ addrW) (BitVec.ofNat 32 (r.b % 2 ^ addrW))
  | .lookup => .lookup (CW.port r.cw)

/-- The decoder (R77, R79): every one of the 2^32 command words is legal or illegal by name. -/
def decode (addrW : Nat) (r : Request) : Decoded :=
  match opOfBits (CW.op r.cw) with
  | none => .illegal .reservedOp
  | some op =>
    if CW.rsv0 r.cw ≠ 0 ∨ CW.rsv1 r.cw ≠ 0 then .illegal .reservedField
    else if CW.wait r.cw = true ∧ op ≠ .getChar then .illegal .waitBit
    else if CW.byte r.cw ≠ 0 ∧ op ≠ .putChar then .illegal .byteField
    else .legal (fieldsOf addrW r op)

/-! ## The match and mask table (R73) -/

/-- One row of R73. -/
structure OpRow where
  op : Op
  pattern : Word
  mask : Word
deriving DecidableEq, Repr

/-- The five rows of R73 and of the opcode table. -/
def opTable : List OpRow :=
  [ { op := .init, pattern := 0x00000000, mask := 0xFFFF00FF },
    { op := .putChar, pattern := 0x00000001, mask := 0xFF0000FF },
    { op := .getChar, pattern := 0x00000002, mask := 0xFFFF00F7 },
    { op := .write, pattern := 0x00000003, mask := 0xFFFF00FF },
    { op := .lookup, pattern := 0x00000004, mask := 0xFFFF00FF } ]

/-- A command word matches a row exactly when `(CW & mask) == match` (R73). -/
def OpRow.hits (row : OpRow) (cw : Word) : Bool := cw &&& row.mask == row.pattern

/-! ## The encoder -/

/-- The opcode bits of an operation (R72). -/
def opBits : Op → BitVec 3
  | .init => 0
  | .putChar => 1
  | .getChar => 2
  | .write => 3
  | .lookup => 4

/-- A command word from its fields at bits 0, 3, 8 and 16, the reserved ones 0 (R71). -/
def commandWord (op : Op) (wait : Bool) (port : PortField) (byte : Byte) : Word :=
  BitVec.ofNat 32 ((opBits op).toNat + 2 ^ 3 * wait.toNat + 2 ^ 8 * port.toNat + 2 ^ 16 * byte.toNat)

/-- The words of an instruction; an ignored operand is written 0, as the assembler writes it (R81). -/
def encode : Instr → Request
  | .init port uartBase clkBase => { cw := commandWord .init false port 0, a := uartBase, b := clkBase }
  | .putc port byte => { cw := commandWord .putChar false port byte, a := 0, b := 0 }
  | .getc port wait => { cw := commandWord .getChar wait port 0, a := 0, b := 0 }
  | .write port buf len => { cw := commandWord .write false port 0, a := buf, b := len.toNat }
  | .lookup port => { cw := commandWord .lookup false port 0, a := 0, b := 0 }

/-! ## Textual forms (R81) -/

/-- The one request a textual form stands for, a pseudo-request by its expansion. -/
def Asm.instr : Asm → Instr
  | .init port uartBase clkBase => .init port uartBase clkBase
  | .putc port byte => .putc port byte
  | .getc port => .getc port false
  | .getcW port => .getc port true
  | .write port addr len => .write port addr (BitVec.ofInt 32 len)
  | .lookup port => .lookup port
  | .getcNb port => .getc port false
  | .newline port => .putc port 0x0A

/-! ## Words as the opcode table numbers them -/

/-- The request whose bits are `w`, the command word first, then `A`, then `B`, each operand as a 32-bit word; every
bit above `nbits` is 0 (log entry 16). -/
def requestOfBits (nbits w : Nat) : Request :=
  let v := w % 2 ^ nbits
  { cw := BitVec.ofNat 32 v, a := v / 2 ^ 32 % 2 ^ 32, b := v / 2 ^ 64 % 2 ^ 32 }

/-- The instruction the decoder reads from those bits, if any. -/
def decodeTableWord (nbits w : Nat) : Option Instr :=
  match decode 32 (requestOfBits nbits w) with
  | .legal i => some i
  | .illegal _ => none

end Sys2Proof
end

