-- ==== Sys2Proof/Machine/State.lean ====
section
/-! DEFINITION. The state of the block (10_state.md), the outcomes that are no next state, and the state after reset
(10_state.md R38). Names are the spec's, in lower case. -/

namespace Sys2Proof.Machine

/-- `MODE` (10_state.md R22). -/
inductive Mode where
  | run | fatal
deriving DecidableEq, Repr

/-- `TXS[p]` (10_state.md R30). -/
inductive TxState where
  | idle | waitFifoEmpty | criticalWrite | packAndDrain
deriving DecidableEq, Repr

/-- `TXSUB[p]` (10_state.md R30). -/
inductive TxSub where
  | none | checkEmpty | pollTxready | pack | pollTxrdy | push | restore
deriving DecidableEq, Repr

/-- `TXSRC[p]` (10_state.md R31): client memory for WRITE, the staging byte for PUT_CHAR. -/
inductive TxSource where
  | mem | stage
deriving DecidableEq, Repr

/-- `RXS[p]` (10_state.md R29, 43_receive.md R171). -/
inductive RxState where
  | idle | fOvrCheck | fOvrClear | fRdyCheck | fRead | fOccCheck | fForceStale | fStaleRead | fResetStale | fRearm
deriving DecidableEq, Repr

/-- The registers of one port (10_state.md R27 to R31). Counts, indices and cursors are natural numbers (00_scope.md R11);
their bounds are an invariant (Safety.lean). -/
structure PortState where
  rxc : Word
  rxs : RxState
  rxwait : Bool
  rxtmp : Word
  txs : TxState
  txsub : TxSub
  txsrc : TxSource
  txbuf : Nat
  txstg : Byte
  txlen : Nat
  txc : Nat
  txw : Nat
  txi : Nat
  txcur : Nat
  txword : Word
deriving DecidableEq, Repr

/-- Every per-port register at its reset value (10_state.md R38). -/
def PortState.reset : PortState :=
  { rxc := 0, rxs := .idle, rxwait := false, rxtmp := 0, txs := .idle, txsub := .none, txsrc := .mem, txbuf := 0,
    txstg := 0, txlen := 0, txc := 0, txw := 0, txi := 0, txcur := 0, txword := 0 }

/-- One value for each of the `N_PORTS = 4` port ids. -/
structure PerPort (α : Type) where
  p0 : α
  p1 : α
  p2 : α
  p3 : α
deriving DecidableEq, Repr

/-- The entry of port `p`. -/
def PerPort.get {α : Type} (t : PerPort α) (p : Port) : α :=
  match p with
  | 0 => t.p0
  | 1 => t.p1
  | 2 => t.p2
  | 3 => t.p3

/-- The table with the entry of port `p` replaced. -/
def PerPort.set {α : Type} (t : PerPort α) (p : Port) (x : α) : PerPort α :=
  match p with
  | 0 => { t with p0 := x }
  | 1 => { t with p1 := x }
  | 2 => { t with p2 := x }
  | 3 => { t with p3 := x }

/-- The same entry for every port. -/
def PerPort.all {α : Type} (x : α) : PerPort α := { p0 := x, p1 := x, p2 := x, p3 := x }

/-- One recorded event (00_scope.md R12): what a model observes (92_eei_decisions.md D38). -/
inductive Event where
  | rd (addr : Nat) (value : Word)
  | wr (addr : Nat) (value : Word)
  | mrd (addr : Nat) (value : Byte)
  | mwr (addr : Nat) (value : Byte)
  | critEnter (port : Port)
  | critExit (port : Port)
  | rsp (status : BitVec 8) (data : Nat)
deriving DecidableEq, Repr

/-- What the client does while no request of its is in progress: it presents a request (30_encoding.md R70), or it
stores a byte into its own memory (20_memory.md R57, R64). -/
inductive ClientAct where
  | request (r : Request)
  | store (addr : Nat) (value : Byte)
deriving DecidableEq, Repr

/-- Client memory: the bytes that differ from what an unlisted address reads as, by strictly rising address. -/
abbrev Memory := List Host.Cell

/-- Why a run is refused (60_exceptions.md R206). -/
inductive Reason where
  /-- `INIT_BASE_MISALIGNED` (40_registry.md R102). -/
  | initBaseMisaligned
  /-- `INIT_ID_NOT_NEXT` (40_registry.md R107). -/
  | initIdNotNext
  /-- `WRITE_RANGE_WRAPS` (20_memory.md R58). -/
  | writeRangeWraps
  /-- `NCHAR_OVERFLOW` (42_transmit.md R154). -/
  | ncharOverflow
deriving DecidableEq, Repr

/-- The machine. -/
structure State where
  /-- The OPEN parameters (00_scope.md R8): the model's own field, which no step changes (log entry 3). -/
  cfg : Params
  /-- `NPORTS` (R20). -/
  nports : Fin (nPorts + 1)
  /-- `BASE[0..N_PORTS-1]` (R21). -/
  base : PerPort Nat
  /-- `MODE` (R22). -/
  mode : Mode
  /-- The mark of `refuse(reason)` (00_scope.md R12, 60_exceptions.md R206; log entry 10): `none` in a run not refused. -/
  refused : Option Reason
  /-- `ACTIVE` (R23): `none`, or the operation and the PORT field of the request in progress. -/
  active : Option (Op × PortField)
  /-- `RSP_STATUS` (R24). -/
  rspStatus : BitVec 8
  /-- `RSP_DATA` (R24). -/
  rspData : Nat
  /-- The registers of each port (R27 to R31). -/
  ports : PerPort PortState
  /-- Client memory (20_memory.md R57). -/
  mem : Memory
  /-- The events recorded so far, oldest first (00_scope.md R12). -/
  trace : List Event
  /-- Input: what the client does next, in order (log entry 6). -/
  client : List ClientAct
  /-- Input: what the device answers to the next register reads, in order (20_memory.md R54; log entry 2). -/
  answers : List Word
  /-- How many register reads have been answered: the argument of `Config.freeAnswer` (log entry 2). -/
  draws : Nat
  /-- Input: the reset input is asserted (70_reset_and_hazards.md R230; log entry 9). -/
  resetPin : Bool
deriving DecidableEq, Repr

/-- What stops the machine as a fault of the block. -/
inductive Fault where
  /-- `FATAL(REGISTRY_FULL)` (60_exceptions.md R203): raised by a step that finds `MODE = FATAL` and no reset asserted.
  Safe: the block does nothing more there (log entry 8). -/
  | registryFull
deriving DecidableEq, Repr

/-- Cases the model gives no meaning. -/
inductive Refusal where
  /-- An instruction whose meaning is not written yet: raised by an arm of `exec`. Safe. -/
  | notModelled (mnemonic : String)
  /-- The state carries the mark of `refuse(reason)` (60_exceptions.md R206): raised by every step of a refused run. Safe
  (log entry 10). -/
  | marked (reason : Reason)
  /-- `ACTIVE` and the FSM registers hold a combination no rule gives a step in: raised by a step in a state no run
  reaches. Safe (log entry 11). -/
  | noRule
deriving DecidableEq, Repr

/-- What an instruction or a step answers. -/
abbrev Result := Host.Outcome State Fault Refusal

/-- The state after reset (10_state.md R38). The inputs and the observation are the model's own fields: nothing is
scripted and nothing has been recorded (log entry 14). -/
def State.reset : State :=
  { cfg := Config.params
    nports := 0
    base := PerPort.all 0
    mode := .run
    refused := none
    active := none
    rspStatus := 0
    rspData := 0
    ports := PerPort.all PortState.reset
    mem := []
    trace := []
    client := []
    answers := []
    draws := 0
    resetPin := false }

end Sys2Proof.Machine
end

