-- ==== Sys2Proof/Machine/Ops.lean ====
section
/-! DEFINITION. The shared operations of the block: client memory, the register bus, the recorded events, responding, the
fatal fault, and reset. Each is one primitive of 00_scope.md R12. -/

namespace Sys2Proof.Machine

/-! ## Constants of 00_scope.md R8 -/

/-- `WORD_BYTES`: the bytes of one FIFO word. -/
def wordBytes : Nat := 4

/-- `LF`, the newline byte. -/
def lf : Byte := 0x0A

/-- `CR_BYTE`, the carriage-return byte. -/
def crByte : Byte := 0x0D

/-- `SENTINEL`, the transient newline marker. -/
def sentinel : Byte := 0x80

/-- `ceil_div(a, b)` (R11). -/
def ceilDiv (a b : Nat) : Nat := (a + b - 1) / b

/-! ## Client memory (20_memory.md R57) -/

/-- What a byte of client memory that nothing has written reads as. The spec gives no such value: DESIGN CHOICE, log
entry 5. -/
def unlistedByte : Byte := 0x00

/-- The byte at address `a`. -/
def Memory.read : Memory → Nat → Byte
  | [], _ => unlistedByte
  | (b, v) :: m, a => if a = b then v else Memory.read m a

/-- Memory with the byte at address `a` replaced, in canonical form. -/
def Memory.write : Memory → Nat → Byte → Memory
  | [], a, v => if v = unlistedByte then [] else [(a, v)]
  | (b, w) :: m, a, v =>
    if a < b then (if v = unlistedByte then (b, w) :: m else (a, v) :: (b, w) :: m)
    else if a = b then (if v = unlistedByte then m else (a, v) :: m)
    else (b, w) :: Memory.write m a v

/-- Every listed address is at least `lo`, addresses strictly rise, and no entry equals what an unlisted address reads
as. -/
def Memory.wfFrom : Nat → Memory → Bool
  | _, [] => true
  | lo, (b, v) :: m => decide (lo ≤ b) && v != unlistedByte && Memory.wfFrom (b + 1) m

/-- The canonical form of client memory. -/
def Memory.wf (m : Memory) : Bool := Memory.wfFrom 0 m

/-! ## Per-port registers -/

/-- The registers of port `p`. -/
def State.port (s : State) (p : Port) : PortState := s.ports.get p

/-- The registers of port `p` replaced. -/
def State.setPort (p : Port) (q : PortState) (s : State) : State := { s with ports := s.ports.set p q }

/-! ## Events (00_scope.md R12) -/

/-- One event recorded after the earlier ones. -/
def record (e : Event) (s : State) : State := { s with trace := s.trace ++ [e] }

/-! ## The register bus (20_memory.md R50, R53, R54) -/

/-- A byte address of the bus: `ADDR_W` bits (R50; log entry 4). -/
def busAddr (s : State) (n : Nat) : Nat := n % 2 ^ s.cfg.addrW

/-- `reg(p, X)`: the byte address of register `X` of port `p` (00_scope.md R12, 40_registry.md R109). -/
def regAddr (s : State) (p : Port) (x : Reg) : Nat := busAddr s (s.base.get p + s.cfg.off x)

/-- The value the device gives to the next register read: any 32-bit value (20_memory.md R54). It is the next scripted
answer, or a free value (log entry 2). -/
def answer (s : State) : Word :=
  match s.answers with
  | v :: _ => v
  | [] => Config.freeAnswer s.draws

/-- `RegRead(a)`: the state after the read, whose value is `answer s`. -/
def busRead (a : Nat) (s : State) : State :=
  record (.rd a (answer s)) { s with answers := s.answers.tail, draws := s.draws + 1 }

/-- `RegWrite(a, v)`. -/
def busWrite (a : Nat) (v : Word) (s : State) : State := record (.wr a v) s

/-- `RegRead(reg(p, X))`. -/
def regRead (p : Port) (x : Reg) (s : State) : State := busRead (regAddr s p x) s

/-- `RegWrite(reg(p, X), v)`. -/
def regWrite (p : Port) (x : Reg) (v : Word) (s : State) : State := busWrite (regAddr s p x) v s

/-! ## Client memory accesses of the block (00_scope.md R12) -/

/-- `MemRead(a, 1)`: the state after the read, whose value is `s.mem.read a`. -/
def memRead (a : Nat) (s : State) : State := record (.mrd a (s.mem.read a)) s

/-- `MemWrite(a, 1, v)`. -/
def memWrite (a : Nat) (v : Byte) (s : State) : State := record (.mwr a v) { s with mem := s.mem.write a v }

/-! ## The critical section (20_memory.md R60) -/

/-- `CritEnter(p)`. -/
def critEnter (p : Port) (s : State) : State := record (.critEnter p) s

/-- `CritExit(p)`. -/
def critExit (p : Port) (s : State) : State := record (.critExit p) s

/-- The critical section of port `p` is held: `CritEnter(p)` is recorded and `CritExit(p)` is not (20_memory.md R60,
42_transmit.md R149). -/
def PortState.inCritical (q : PortState) : Bool := q.txs == .packAndDrain && q.txsub != .restore

/-! ## Accepting and ending a request -/

/-- `ACTIVE <- (op, port)` (30_encoding.md R80). -/
def activate (op : Op) (port : PortField) (s : State) : State := { s with active := some (op, port) }

/-- The codes of `RSP_STATUS` (10_state.md R25). -/
inductive Status where
  | success | errInval | errRxNotReady | errIllegal | errUninit
deriving DecidableEq, Repr

/-- The 8-bit code of a status (10_state.md R25). -/
def statusCode : Status → BitVec 8
  | .success => 0x00
  | .errInval => 0x01
  | .errRxNotReady => 0x02
  | .errIllegal => 0x03
  | .errUninit => 0xFF

/-- `respond(status, data)`: the response registers are set, the response is delivered, and `ACTIVE` returns to `NONE`
(00_scope.md R12, 10_state.md R23, R24). -/
def respond (st : Status) (data : Nat) (s : State) : State :=
  record (.rsp (statusCode st) data) { s with active := none, rspStatus := statusCode st, rspData := data }

/-- `raise FATAL(REGISTRY_FULL)`: `MODE <- FATAL`; nothing is saved, `ACTIVE` keeps the request, no response is given
(60_exceptions.md R203). The block has no return from it but reset (60_exceptions.md R208). -/
def raiseFatal (s : State) : State := { s with mode := .fatal }

/-- `refuse(reason)`: the whole state is marked as refused; nothing else changes (00_scope.md R12, 60_exceptions.md
R206). -/
def refuse (reason : Reason) (s : State) : State := { s with refused := some reason }

/-! ## Reset (70_reset_and_hazards.md R230, R231) -/

/-- The reset input takes effect: every piece of block state at its reset value, no access. The parameters, client
memory, what has been delivered, the mark of a refusal and the inputs not yet taken are not block state; the reset input is released
(log entry 9). -/
def resetBlock (s : State) : State :=
  { State.reset with
    cfg := s.cfg
    refused := s.refused
    mem := s.mem
    trace := s.trace
    client := s.client
    answers := s.answers
    draws := s.draws }

/-- The client stores a byte of its own between requests: no event of the block (20_memory.md R57, R64). -/
def clientStore (a : Nat) (v : Byte) (s : State) : State := { s with mem := s.mem.write (busAddr s a) v }

end Sys2Proof.Machine
end

