-- ==== Sys2Proof/Machine/Operands.lean ====
section
/-! DEFINITION. The operands of requests and of the transmit rules: the port a request names, the signed length, and the
source bytes of a transmit. -/

namespace Sys2Proof.Machine

/-- The port check (40_registry.md R101): a port id is registered exactly when it is below `NPORTS`. -/
def resolvePort (port : PortField) (s : State) : Option Port :=
  if h : port.toNat < s.nports.val then some ⟨port.toNat, by have := s.nports.isLt; omega⟩ else none

/-- `LEN = sext_64(B[31:0])`, compared as a signed integer (30_encoding.md R74, R75). -/
def signedLen (len : Word) : Int := len.toInt

/-- The client address of source byte `k` of port `p` (20_memory.md R50(b)). -/
def srcAddr (s : State) (p : Port) (k : Nat) : Nat := busAddr s ((s.port p).txbuf + k)

/-- The value of `SrcRead(p, k)` (41_packing.md R120). -/
def srcByte (s : State) (p : Port) (k : Nat) : Byte :=
  match (s.port p).txsrc with
  | .mem => s.mem.read (srcAddr s p k)
  | .stage => (s.port p).txstg

/-- The state after `SrcRead(p, k)`: an event for client memory, none for the staging byte (41_packing.md R120). -/
def srcRead (p : Port) (k : Nat) (s : State) : State :=
  match (s.port p).txsrc with
  | .mem => memRead (srcAddr s p k) s
  | .stage => s

/-- `SrcWrite(p, k, v)` (41_packing.md R120). -/
def srcWrite (p : Port) (k : Nat) (v : Byte) (s : State) : State :=
  match (s.port p).txsrc with
  | .mem => memWrite (srcAddr s p k) v s
  | .stage => s.setPort p { s.port p with txstg := v }

end Sys2Proof.Machine
end

