-- ==== Sys2Proof/Machine/Flags.lean ====
section
/-! DEFINITION. The flags the block tests in a device answer (10_state.md R33, R34) and the one flag it computes from its
own state, the empty receive cache (R28). The block has no condition flags (R25). -/

namespace Sys2Proof.Machine

/-- `bit(v, k)` (00_scope.md R12). -/
def bit (v : Word) (k : Fin 32) : Bool := v.getLsbD k.val

/-- `SR_OVERRUN` of a status word. -/
def srOverrun (c : Params) (v : Word) : Bool := bit v c.srOverrun

/-- `SR_RXRDY` of a status word: the receive FIFO holds a full word. -/
def srRxrdy (c : Params) (v : Word) : Bool := bit v c.srRxrdy

/-- `SR_TXRDY` of a status word: the transmit FIFO can accept a word. -/
def srTxrdy (c : Params) (v : Word) : Bool := bit v c.srTxrdy

/-- `SR_TXEMT` of a status word: the transmit FIFO is empty. -/
def srTxemt (c : Params) (v : Word) : Bool := bit v c.srTxemt

/-- `ISR_TXREADY` of an interrupt-status word: the TX-ready latch. -/
def isrTxready (c : Params) (v : Word) : Bool := bit v c.isrTxready

/-- The occupancy field `v & RXOCC_MASK` is non-zero (43_receive.md R177). -/
def rxOccupied (c : Params) (v : Word) : Bool := v &&& c.rxoccMask != 0

/-- `CACHE_EMPTY`: the receive cache is the all-zero word (10_state.md R28). -/
def PortState.cacheEmpty (q : PortState) : Bool := q.rxc == 0

end Sys2Proof.Machine
end

