-- ==== Sys2Proof/Machine/Packing.lean ====
section
/-! DEFINITION. FIFO word packing, unpacking and newline transcoding (41_packing.md). -/

namespace Sys2Proof.Machine

/-! ## Byte lanes (R121, R122) -/

/-- `lane_get(w, j) = w[8j+7:8j]`. -/
def laneGet (w : Word) (j : Nat) : Byte := w.extractLsb' (8 * j) 8

/-- `lane_put(w, j, b)`. -/
def lanePut (w : Word) (j : Nat) (b : Byte) : Word :=
  (w &&& ~~~(0xFF#32 <<< (8 * j))) ||| (b.setWidth 32 <<< (8 * j))

/-- `pack4(b0, b1, b2, b3)`: the little-endian word. -/
def pack4 (b0 b1 b2 b3 : Byte) : Word :=
  (b3.setWidth 32 <<< 24) ||| (b2.setWidth 32 <<< 16) ||| (b1.setWidth 32 <<< 8) ||| b0.setWidth 32

/-- The byte of `unpack1(w)`: the low lane. -/
def unpackByte (w : Word) : Byte := w.extractLsb' 0 8

/-- The rest of `unpack1(w)`: a logical shift by one lane. -/
def unpackRest (w : Word) : Word := w >>> 8

/-! ## The count pass (R124) -/

/-- Source bytes `j .. j+n-1` read in ascending order, and how many of them are `LF`. -/
def countFrom (p : Port) : Nat → Nat → State → Nat × State
  | 0, _, s => (0, s)
  | n + 1, j, s =>
    let here := if srcByte s p j = lf then 1 else 0
    let rest := countFrom p n (j + 1) (srcRead p j s)
    (here + rest.1, rest.2)

/-- `count_pass(p, N)`: the physical character count, and the state after its reads. -/
def countPass (p : Port) (n : Nat) (s : State) : Nat × State :=
  let r := countFrom p n 0 s
  (n + r.1, r.2)

/-! ## Words and slots (R125) -/

/-- `W = ceil_div(C, 4)`. -/
def wordCount (c : Nat) : Nat := ceilDiv c wordBytes

/-- `nslots(i) = min(4, C - 4*i)`. -/
def nslots (c i : Nat) : Nat := min wordBytes (c - wordBytes * i)

/-! ## The slot walk (R123, R126) -/

/-- What one slot step emits, the cursor after it, and the state after it. -/
structure SlotOut where
  out : Byte
  cur : Nat
  after : State

/-- `slot_step(p, cur)` (R123). -/
def slotStep (p : Port) (cur : Nat) (s : State) : SlotOut :=
  let b := srcByte s p cur
  let s' := srcRead p cur s
  if b = lf then { out := crByte, cur := cur, after := srcWrite p cur sentinel s' }
  else if b = sentinel then { out := lf, cur := cur + 1, after := s' }
  else { out := b, cur := cur + 1, after := s' }

/-- The word being built, the cursor and the state after some slots. -/
structure PackOut where
  word : Word
  cur : Nat
  after : State

/-- Slots `j .. j+n-1` of a word filled into `w`, from cursor `cur`. -/
def packFrom (p : Port) : Nat → Nat → Word → Nat → State → PackOut
  | 0, _, w, cur, s => { word := w, cur := cur, after := s }
  | n + 1, j, w, cur, s =>
    let o := slotStep p cur s
    packFrom p n (j + 1) (lanePut w j o.out) o.cur o.after

/-- `pack_word(p, cur, n)` (R126): lanes no slot fills are 0. -/
def packWord (p : Port) (cur n : Nat) (s : State) : PackOut := packFrom p n 0 0 cur s

/-! ## The restore pass (R127) -/

/-- Source byte `j` read, and written back as `LF` if it holds `SENTINEL`. -/
def restoreByte (p : Port) (j : Nat) (s : State) : State :=
  let b := srcByte s p j
  let s' := srcRead p j s
  if b = sentinel then srcWrite p j lf s' else s'

/-- Source bytes `j .. j+n-1` restored in ascending order. -/
def restoreFrom (p : Port) : Nat → Nat → State → State
  | 0, _, s => s
  | n + 1, j, s => restoreFrom p n (j + 1) (restoreByte p j s)

/-- `restore_pass(p, N)`. -/
def restorePass (p : Port) (n : Nat) (s : State) : State := restoreFrom p n 0 s

/-! ## The physical stream (R128) -/

/-- `expand(b)`: the physical bytes a source byte becomes. -/
def expand (b : Byte) : List Byte :=
  if b = lf then [crByte, lf] else if b = sentinel then [lf] else [b]

/-- What the restore pass leaves of a source byte (R130). -/
def restored (b : Byte) : Byte := if b = sentinel then lf else b

/-- The source bytes `j .. j+n-1` of port `p` as the state holds them. -/
def srcBytes (s : State) (p : Port) (j n : Nat) : List Byte := (List.range' j n).map (srcByte s p)

/-- The physical bytes still to come from source bytes `j .. j+n-1`: `expand(s_j) ++ ...`. -/
def physical (s : State) (p : Port) (j n : Nat) : List Byte := (srcBytes s p j n).flatMap expand

end Sys2Proof.Machine
end

