-- ==== Sys2Proof/Machine/Registry.lean ====
section
/-! DEFINITION. The port registry: INIT and LOOKUP (40_registry.md). -/

namespace Sys2Proof.Machine

/-- The two reset commands of INIT, RX first (40_registry.md R104), at the control register of the given base. -/
def initResets (uartBase : Nat) (s : State) : State :=
  let cr := busAddr s (uartBase + s.cfg.offCR)
  busWrite cr s.cfg.cmdResetTx (busWrite cr s.cfg.cmdResetRx s)

/-- `BASE[NPORTS] <- base; NPORTS <- NPORTS + 1` (40_registry.md R104), where `NPORTS < N_PORTS`. -/
def registerPort (uartBase : Nat) (s : State) (h : s.nports.val < nPorts) : State :=
  { s with base := s.base.set ⟨s.nports.val, h⟩ uartBase, nports := ⟨s.nports.val + 1, Nat.succ_lt_succ h⟩ }

/-- INIT (40_registry.md R100, R102, R104, R105, R107). The clock-select base is ignored (R103). -/
def execInit (port : PortField) (uartBase : Nat) (_clkBase : Nat) (s : State) : Result :=
  let s1 := activate .init port s
  if uartBase % 4 ≠ 0 then .next (refuse .initBaseMisaligned s1)
  else if s1.nports.val < nPorts ∧ port.toNat ≠ s1.nports.val then .next (refuse .initIdNotNext s1)
  else
    let s2 := initResets uartBase s1
    if h : s2.nports.val < nPorts then
      .next (respond .success s2.nports.val (registerPort uartBase s2 h))
    else .next (raiseFatal s2)

/-- LOOKUP (40_registry.md R101, R106). -/
def execLookup (port : PortField) (s : State) : Result :=
  let s1 := activate .lookup port s
  match resolvePort port s1 with
  | none => .next (respond .errUninit 0 s1)
  | some p => .next (respond .success (s1.base.get p) s1)

end Sys2Proof.Machine
end

