-- ==== Sys2Proof/Machine/Transmit.lean ====
section
/-! DEFINITION. The transmit path: WRITE, PUT_CHAR and the transmit FSM (42_transmit.md), one step per state or
sub-state. -/

namespace Sys2Proof.Machine

/-! ## Start (R143) -/

/-- The registers of port `p` when a transmit of `c` physical characters starts (R143). -/
def txStarted (c : Nat) (q : PortState) : PortState :=
  { q with txc := c, txw := wordCount c, txi := 0, txcur := 0, txword := 0, txs := .waitFifoEmpty, txsub := .checkEmpty }

/-- `tx_run(p)` up to its first register access: the count pass, the refusal of a count too wide for the count register
(R154), and the entry of `WAIT_FIFO_EMPTY` (R143). -/
def txRun (p : Port) (s : State) : Result :=
  let r := countPass p (s.port p).txlen s
  if 2 ^ s.cfg.ncharW - 1 < r.1 then .next (refuse .ncharOverflow r.2)
  else .next (r.2.setPort p (txStarted r.1 (r.2.port p)))

/-- PUT_CHAR (R142): the staging byte holds the byte to send. -/
def execPutc (port : PortField) (byte : Byte) (s : State) : Result :=
  let s1 := activate .putChar port s
  match resolvePort port s1 with
  | none => .next (respond .errUninit 0 s1)
  | some p => txRun p (s1.setPort p { s1.port p with txsrc := .stage, txstg := byte, txlen := 1 })

/-- WRITE (R140, R141; the wrapping range of 20_memory.md R58), in the check order of 60_exceptions.md R204. -/
def execWrite (port : PortField) (buf : Nat) (len : Word) (s : State) : Result :=
  let s1 := activate .write port s
  match resolvePort port s1 with
  | none => .next (respond .errUninit 0 s1)
  | some p =>
    if buf = 0 ∨ signedLen len ≤ 0 then .next (respond .errInval 0 s1)
    else if 2 ^ s.cfg.addrW - 1 < buf + len.toNat - 1 then .next (refuse .writeRangeWraps s1)
    else txRun p (s1.setPort p { s1.port p with txsrc := .mem, txbuf := buf, txlen := len.toNat })

/-! ## The states (R144 to R150) -/

/-- `CRITICAL_WRITE` is entered (R144). -/
def toCriticalWrite (p : Port) (s : State) : State :=
  s.setPort p { s.port p with txs := .criticalWrite, txsub := .none }

/-- The sub-state of port `p` changes. -/
def setSub (p : Port) (sub : TxSub) (s : State) : State := s.setPort p { s.port p with txsub := sub }

/-- `CHECK_EMPTY` (R144): one read of `SR`. -/
def txCheckEmpty (p : Port) (s : State) : State :=
  let s1 := regRead p .sr s
  if srTxemt s.cfg (answer s) then toCriticalWrite p s1 else setSub p .pollTxready s1

/-- `POLL_TXREADY` (R144): one read of `ISR`; the sub-state stays until the latch is seen. -/
def txPollTxready (p : Port) (s : State) : State :=
  let s1 := regRead p .isr s
  if isrTxready s.cfg (answer s) then toCriticalWrite p s1 else s1

/-- `CRITICAL_WRITE` (R145): the section is entered, the count is programmed, the latch is cleared. -/
def txCriticalWrite (p : Port) (s : State) : State :=
  let s1 := critEnter p s
  let s2 := regWrite p .nchar (BitVec.ofNat 32 (s.port p).txc) s1
  let s3 := regWrite p .cr s.cfg.cmdResetTxready s2
  s3.setPort p { s3.port p with txs := .packAndDrain, txsub := .pack }

/-- `PACK` (R146): one word is packed from the source. -/
def txPack (p : Port) (s : State) : State :=
  let q := s.port p
  let o := packWord p q.txcur (nslots q.txc q.txi) s
  o.after.setPort p { o.after.port p with txword := o.word, txcur := o.cur, txsub := .pollTxrdy }

/-- `POLL_TXRDY` (R147): one read of `SR`; the sub-state stays until the bit is seen. -/
def txPollTxrdy (p : Port) (s : State) : State :=
  let s1 := regRead p .sr s
  if srTxrdy s.cfg (answer s) then setSub p .push s1 else s1

/-- `PUSH` (R148, R149): the word is written to the FIFO; after the last one the critical section ends. -/
def txPush (p : Port) (s : State) : State :=
  let s1 := regWrite p .tf (s.port p).txword s
  let i := (s.port p).txi + 1
  let s2 := s1.setPort p { s1.port p with txi := i }
  if i < (s.port p).txw then setSub p .pack s2 else setSub p .restore (critExit p s2)

/-- `RESTORE` (R150): the source is restored, the FSM returns to `IDLE`, and the request is answered. -/
def txRestore (p : Port) (s : State) : State :=
  let s1 := restorePass p (s.port p).txlen s
  respond .success 0 (s1.setPort p { s1.port p with txs := .idle, txsub := .none })

/-- One step of a transmit in progress on port `p`. A pair of `TXS` and `TXSUB` that R30 does not list has no rule. -/
def txStep (p : Port) (s : State) : Result :=
  match (s.port p).txs, (s.port p).txsub with
  | .waitFifoEmpty, .checkEmpty => .next (txCheckEmpty p s)
  | .waitFifoEmpty, .pollTxready => .next (txPollTxready p s)
  | .criticalWrite, .none => .next (txCriticalWrite p s)
  | .packAndDrain, .pack => .next (txPack p s)
  | .packAndDrain, .pollTxrdy => .next (txPollTxrdy p s)
  | .packAndDrain, .push => .next (txPush p s)
  | .packAndDrain, .restore => .next (txRestore p s)
  | _, _ => .refused .noRule

end Sys2Proof.Machine
end

