-- ==== Sys2Proof/Machine/Receive.lean ====
section
/-! DEFINITION. The receive path: GET_CHAR and the fetch FSM (43_receive.md), one step per sub-state. -/

namespace Sys2Proof.Machine

/-- Byte extraction and the response (43_receive.md R173): the low lane is answered, the cache shifts. -/
def extractByte (p : Port) (s : State) : State :=
  let w := (s.port p).rxc
  respond .success (unpackByte w).toNat (s.setPort p { s.port p with rxc := unpackRest w })

/-- GET_CHAR (43_receive.md R170): a cached byte is answered at once (R179), an empty cache starts a fetch. -/
def execGetc (port : PortField) (wait : Bool) (s : State) : Result :=
  let s1 := activate .getChar port s
  match resolvePort port s1 with
  | none => .next (respond .errUninit 0 s1)
  | some p =>
    if (s1.port p).cacheEmpty then
      .next (s1.setPort p { s1.port p with rxwait := wait, rxs := .fOvrCheck })
    else .next (extractByte p s1)

/-- The fetch sub-state of port `p` changes. -/
def setRxs (p : Port) (r : RxState) (s : State) : State := s.setPort p { s.port p with rxs := r }

/-- Exit `READY` (R171, R172): the fetched word becomes the cache and the first byte is extracted. -/
def rxReady (p : Port) (s : State) : State :=
  extractByte p (s.setPort p { s.port p with rxc := (s.port p).rxtmp, rxs := .idle })

/-- Exit `NOT_READY` (R170, R178): a waiting request fetches again at once, another one is answered. -/
def rxNotReady (p : Port) (s : State) : State :=
  if (s.port p).rxwait then setRxs p .fOvrCheck s
  else respond .errRxNotReady 0 (setRxs p .idle s)

/-- `F_OVR_CHECK` (R174). -/
def rxOvrCheck (p : Port) (s : State) : State :=
  setRxs p (if srOverrun s.cfg (answer s) then .fOvrClear else .fRdyCheck) (regRead p .sr s)

/-- `F_OVR_CLEAR` (R175). -/
def rxOvrClear (p : Port) (s : State) : State :=
  setRxs p .fRdyCheck (regWrite p .cr s.cfg.cmdResetErr s)

/-- `F_RDY_CHECK` (R176): a second read of `SR`. -/
def rxRdyCheck (p : Port) (s : State) : State :=
  setRxs p (if srRxrdy s.cfg (answer s) then .fRead else .fOccCheck) (regRead p .sr s)

/-- `RXTMP[p] <- RegRead(reg(p, RF))` (R176, R177). -/
def rxReadWord (p : Port) (s : State) : State :=
  let s1 := regRead p .rf s
  s1.setPort p { s1.port p with rxtmp := answer s }

/-- `F_READ` (R176). -/
def rxRead (p : Port) (s : State) : State := rxReady p (rxReadWord p s)

/-- `F_OCC_CHECK` (R177): only the occupancy field is tested. -/
def rxOccCheck (p : Port) (s : State) : State :=
  let s1 := regRead p .rxocc s
  if rxOccupied s.cfg (answer s) then setRxs p .fForceStale s1 else rxNotReady p s1

/-- `F_FORCE_STALE` (R177). -/
def rxForceStale (p : Port) (s : State) : State :=
  setRxs p .fStaleRead (regWrite p .cr s.cfg.cmdForceStale s)

/-- `F_STALE_READ` (R177). -/
def rxStaleRead (p : Port) (s : State) : State := setRxs p .fResetStale (rxReadWord p s)

/-- `F_RESET_STALE` (R177). -/
def rxResetStale (p : Port) (s : State) : State :=
  setRxs p .fRearm (regWrite p .cr s.cfg.cmdResetStale s)

/-- `F_REARM` (R177). -/
def rxRearm (p : Port) (s : State) : State := rxReady p (regWrite p .rxwm s.cfg.rxwmRearm s)

/-- One step of the fetch in progress on port `p` (R171). Outside a fetch there is no rule. -/
def rxStep (p : Port) (s : State) : Result :=
  match (s.port p).rxs with
  | .idle => .refused .noRule
  | .fOvrCheck => .next (rxOvrCheck p s)
  | .fOvrClear => .next (rxOvrClear p s)
  | .fRdyCheck => .next (rxRdyCheck p s)
  | .fRead => .next (rxRead p s)
  | .fOccCheck => .next (rxOccCheck p s)
  | .fForceStale => .next (rxForceStale p s)
  | .fStaleRead => .next (rxStaleRead p s)
  | .fResetStale => .next (rxResetStale p s)
  | .fRearm => .next (rxRearm p s)

end Sys2Proof.Machine
end

