-- ==== Sys2Proof/Machine/Dispatch.lean ====
section
/-! DEFINITION. The meaning of an accepted legal request, one arm per constructor of Instr (30_encoding.md R72, R80). -/

namespace Sys2Proof.Machine

def exec (i : Instr) (s : State) : Host.Outcome State Fault Refusal :=
  match i with
  | .init port uartBase clkBase => Sys2Proof.Machine.execInit port uartBase clkBase s
  | .putc port byte => Sys2Proof.Machine.execPutc port byte s
  | .getc port wait => Sys2Proof.Machine.execGetc port wait s
  | .write port buf len => Sys2Proof.Machine.execWrite port buf len s
  | .lookup port => Sys2Proof.Machine.execLookup port s

end Sys2Proof.Machine
end

