-- ==== Sys2Proof/Machine/Sequencer.lean ====
section
/-! DEFINITION. What the block does in one step: reset, acceptance of a request, or one FSM step of the request in
progress (30_encoding.md R80, 10_state.md R23, R26, 70_reset_and_hazards.md R230). -/

namespace Sys2Proof.Machine

/-- `accept(CW, A, B)` (30_encoding.md R80): an illegal command word is answered `ERR_ILLEGAL` (R78), a legal one runs
its rule. -/
def accept (r : Request) (s : State) : Result :=
  match decode s.cfg.addrW r with
  | .illegal _ => .next (respond .errIllegal 0 s)
  | .legal i => exec i s

/-- The block is free (`ACTIVE = NONE`, `MODE = RUN`) and takes the next thing the client does; with nothing to take it
waits (60_exceptions.md R214). -/
def takeClient (s : State) : Result :=
  match s.client with
  | [] => .next s
  | .store a v :: rest => .next (clientStore a v { s with client := rest })
  | .request r :: rest => accept r { s with client := rest }

/-- One step of the request in progress. INIT and LOOKUP end in the step that accepts them. -/
def advance (op : Op) (port : PortField) (s : State) : Result :=
  match resolvePort port s, op with
  | some p, .putChar => txStep p s
  | some p, .write => txStep p s
  | some p, .getChar => rxStep p s
  | _, _ => .refused .noRule

/-- One step of a run that is not refused. -/
def cycleRun (s : State) : Result :=
  if s.resetPin then .next (resetBlock s)
  else
    match s.mode with
    | .fatal => .fault .registryFull
    | .run =>
      match s.active with
      | none => takeClient s
      | some (op, port) => advance op port s

/-- One step of the machine: a refused run goes no further, and its mark stays (60_exceptions.md R206; log entry 10). -/
def cycle (s : State) : Result :=
  match s.refused with
  | some reason => .refused (.marked reason)
  | none => cycleRun s

/-- The state that takes `r` as the very next request: the client presents it, and the block is free to accept it. -/
def presentRequest (r : Request) (s : State) : State :=
  { s with client := .request r :: s.client, mode := .run, refused := none, active := none, resetPin := false }

end Sys2Proof.Machine
end

