-- ==== Sys2Proof/Machine/Step.lean ====
section
/-! DEFINITION. One step of the machine, and the placing of one request where the next step takes it. -/

namespace Sys2Proof.Machine

/-- One step (Sequencer.lean). -/
def step : State → Host.Outcome State Fault Refusal := cycle

/-- `s` with the request whose bits are `w` as the next request (log entries 6 and 16). -/
def State.withFetchWord (s : State) (nbits w : Nat) : State := presentRequest (requestOfBits nbits w) s

end Sys2Proof.Machine
end

