-- ==== Sys2Proof/Safety.lean ====
section
/-! DEFINITION. What a state that a run can reach looks like, in the words claims use: the bounds of 10_state.md, which
FSM states go together, the cursor ledger of 41_packing.md R129, and which events a step may record. -/

namespace Sys2Proof.Machine

/-- Client memory is in canonical form and lies inside the address space (20_memory.md R50). -/
abbrev MemInv (s : State) : Prop := s.mem.wf = true ∧ ∀ c ∈ s.mem, c.1 < 2 ^ s.cfg.addrW

/-- Every entry of the registry is a 4-aligned address of the bus, and entries not yet registered hold the reset value
(10_state.md R21, 40_registry.md R102, R108). -/
abbrev RegistryInv (s : State) : Prop :=
  ∀ p : Port, s.base.get p % 4 = 0 ∧ s.base.get p < 2 ^ s.cfg.addrW ∧ (s.nports.val ≤ p.val → s.base.get p = 0)

/-- The five codes of `RSP_STATUS` (10_state.md R25). -/
def statusCodes : List (BitVec 8) :=
  [Status.success, .errInval, .errRxNotReady, .errIllegal, .errUninit].map statusCode

/-- The response registers hold a code of R25 and a value of `ADDR_W` bits (10_state.md R24). -/
abbrev ResponseInv (s : State) : Prop := s.rspStatus ∈ statusCodes ∧ s.rspData < 2 ^ s.cfg.addrW

/-- The sub-states that R30 lists for a transmit state. -/
def subsOf : TxState → List TxSub
  | .idle => [.none]
  | .waitFifoEmpty => [.checkEmpty, .pollTxready]
  | .criticalWrite => [.none]
  | .packAndDrain => [.pack, .pollTxrdy, .push, .restore]

/-- A port no request is in progress on. -/
abbrev Quiet (q : PortState) : Prop := q.txs = .idle ∧ q.rxs = .idle

/-- A port whose request of operation `op` is in progress. -/
def Serving (op : Op) (q : PortState) : Bool :=
  match op with
  | .putChar => q.txs != .idle && q.rxs == .idle && q.txsrc == .stage
  | .write => q.txs != .idle && q.rxs == .idle && q.txsrc == .mem
  | .getChar => q.txs == .idle && q.rxs != .idle && q.rxc == 0
  | .init => false
  | .lookup => false

/-- The requests that refuse for a reason (60_exceptions.md R206). -/
def Reason.ops : Reason → List Op
  | .initBaseMisaligned => [.init]
  | .initIdNotNext => [.init]
  | .writeRangeWraps => [.write]
  | .ncharOverflow => [.putChar, .write]

/-- `ACTIVE`, `MODE`, the mark of a refusal and the FSM registers agree: at most the port of the request in progress is
out of idle, a refused request never left the idle states, and a faulted run is not refused
(10_state.md R22, R23, R29, R30; 60_exceptions.md R203, R206). -/
def activeOk (s : State) : Bool :=
  match s.mode, s.refused, s.active with
  | .fatal, none, some (.init, _) => s.nports == 4 && decide (∀ p : Port, Quiet (s.port p))
  | .fatal, _, _ => false
  | .run, some reason, some (op, _) => reason.ops.contains op && decide (∀ p : Port, Quiet (s.port p))
  | .run, some _, none => false
  | .run, none, none => decide (∀ p : Port, Quiet (s.port p))
  | .run, none, some (op, port) =>
    decide (port.toNat < s.nports.val) &&
    decide (∀ p : Port, if p.val = port.toNat then Serving op (s.port p) = true else Quiet (s.port p))

/-- The control invariant: `activeOk`, and every port's sub-state is one R30 lists. -/
abbrev ControlInv (s : State) : Prop :=
  activeOk s = true ∧ ∀ p : Port, (s.port p).txsub ∈ subsOf (s.port p).txs

/-- The slots of the word in hand: packed and not yet pushed (42_transmit.md R146 to R148). -/
def inHand (q : PortState) : Nat :=
  if q.txsub = .pollTxrdy ∨ q.txsub = .push then nslots q.txc q.txi else 0

/-- The physical bytes still to be packed from the source of port `p`. -/
def toCome (s : State) (p : Port) : List Byte := physical s p (s.port p).txcur ((s.port p).txlen - (s.port p).txcur)

/-- The bounds of 10_state.md R31 on the working registers of a transmit in progress. -/
abbrev TxBounds (s : State) (q : PortState) : Prop :=
  1 ≤ q.txlen ∧ q.txlen ≤ 2 ^ 31 - 1 ∧ q.txcur ≤ q.txlen ∧
  1 ≤ q.txc ∧ q.txc ≤ 2 * q.txlen ∧ q.txc ≤ 2 ^ s.cfg.ncharW - 1 ∧ q.txw = wordCount q.txc ∧
  (q.txsrc = .mem → q.txbuf ≠ 0 ∧ q.txbuf + q.txlen ≤ 2 ^ s.cfg.addrW) ∧
  (q.txsrc = .stage → q.txlen = 1)

/-- The slots pushed, in hand and to come add up to `C`, and after the last word the cursor is at `N`
(41_packing.md R129). -/
abbrev TxLedger (s : State) (p : Port) (q : PortState) : Prop :=
  (q.txsub = .restore → q.txi = q.txw ∧ q.txcur = q.txlen) ∧
  (q.txsub ≠ .restore → q.txi < q.txw ∧ (toCome s p).length + inHand q + wordBytes * q.txi = q.txc)

/-- The transmit invariant of port `p`. -/
abbrev TxInv (s : State) (p : Port) : Prop :=
  (s.port p).txs ≠ .idle → TxBounds s (s.port p) ∧ TxLedger s p (s.port p)

/-- Every invariant of the machine together. -/
structure Inv (s : State) : Prop where
  params : s.cfg.wf = true
  mem : MemInv s
  registry : RegistryInv s
  response : ResponseInv s
  control : ControlInv s
  transmit : ∀ p : Port, TxInv s p

/-- The block is free to accept a request: `MODE = RUN`, `ACTIVE = NONE`, no reset asserted, the run not refused
(30_encoding.md R80). -/
abbrev Accepting (s : State) : Prop := s.refused = none ∧ s.resetPin = false ∧ s.mode = .run ∧ s.active = none

/-- A request of operation `op` on port `p` is in progress, no reset is asserted and the run is not refused. -/
abbrev InProgress (op : Op) (p : Port) (s : State) : Prop :=
  s.refused = none ∧ s.resetPin = false ∧ s.mode = .run ∧ s.active = some (op, BitVec.ofNat 8 p.val) ∧ p.val < s.nports.val

/-- The port named by a request is registered under id `p` (40_registry.md R101). -/
abbrev Registered (s : State) (port : PortField) (p : Port) : Prop := port.toNat = p.val ∧ p.val < s.nports.val

/-- `n` steps of the machine, stopping at the first fault or refusal. -/
def run : Nat → State → Result
  | 0, s => .next s
  | n + 1, s =>
    match step s with
    | .next t => run n t
    | .fault f => .fault f
    | .refused why => .refused why

/-- The instruction a step accepts: a free block's next request, when it is legal. -/
def accepted (s : State) : Option Instr :=
  match s.active, s.client with
  | none, .request r :: _ =>
    match decode s.cfg.addrW r with
    | .legal i => some i
    | .illegal _ => none
  | _, _ => none

/-- The request a step serves: the one in progress, or the legal one it accepts. -/
def served (s : State) : Option (Op × PortField) :=
  match s.active with
  | some r => some r
  | none => (accepted s).map fun i => (i.op, i.port)

/-- The receive registers of a port, without the transmit registers. -/
def rxRegs (q : PortState) : Word × RxState × Bool × Word := (q.rxc, q.rxs, q.rxwait, q.rxtmp)

/-- The port with the receive registers of another, for comparing the transmit registers of the two. -/
def withRxOf (q r : PortState) : PortState :=
  { q with rxc := r.rxc, rxs := r.rxs, rxwait := r.rxwait, rxtmp := r.rxtmp }

/-- Both have the same transmit registers (10_state.md R30, R31). -/
abbrev SameTx (q r : PortState) : Prop := withRxOf q r = r

/-- Both have the same receive registers (10_state.md R27, R29). -/
abbrev SameRx (q r : PortState) : Prop := rxRegs q = rxRegs r

/-- The words written to the transmit FIFO of port `p` in a list of events, in order. -/
def fifoWords (s : State) (p : Port) (es : List Event) : List Word :=
  es.filterMap fun e =>
    match e with
    | .wr a v => if a = regAddr s p .tf then some v else none
    | _ => none

/-- The lanes of a word, lane 0 first (20_memory.md R51). -/
def lanes (w : Word) : List Byte := [laneGet w 0, laneGet w 1, laneGet w 2, laneGet w 3]

/-- The bytes of client memory from `buf` on. -/
def memBytes (s : State) (buf n : Nat) : List Byte := (List.range n).map fun k => s.mem.read (buf + k)

/-- A read of the register bus. -/
def Event.isBusRead : Event → Bool
  | .rd _ _ => true
  | _ => false

/-- An event of the register bus. -/
def Event.isBus : Event → Bool
  | .rd _ _ => true
  | .wr _ _ => true
  | _ => false

/-- An event of client memory. -/
def Event.isMem : Event → Bool
  | .mrd _ _ => true
  | .mwr _ _ => true
  | _ => false

/-- The address of a client-memory event. -/
def Event.memAddr : Event → Option Nat
  | .mrd a _ => some a
  | .mwr a _ => some a
  | _ => none

/-- The registers a request of an operation reads on its port (42_transmit.md R151, 43_receive.md R182). -/
def readsOf : Op → List Reg
  | .putChar => [.sr, .isr]
  | .write => [.sr, .isr]
  | .getChar => [.sr, .rxocc, .rf]
  | .init => []
  | .lookup => []

/-- The registers a request of an operation writes on its port `p`, each with the value it writes from state `s`
(42_transmit.md R145, R148, 43_receive.md R175, R177). -/
def writesOf (s : State) (p : Port) : Op → List (Reg × Word)
  | .putChar => [(.nchar, BitVec.ofNat 32 (s.port p).txc), (.cr, s.cfg.cmdResetTxready), (.tf, (s.port p).txword)]
  | .write => [(.nchar, BitVec.ofNat 32 (s.port p).txc), (.cr, s.cfg.cmdResetTxready), (.tf, (s.port p).txword)]
  | .getChar =>
    [(.cr, s.cfg.cmdResetErr), (.cr, s.cfg.cmdForceStale), (.cr, s.cfg.cmdResetStale), (.rxwm, s.cfg.rxwmRearm)]
  | .init => []
  | .lookup => []

/-- The register access of an event is one that a request of operation `op` makes on port `p` (10_state.md R33). -/
def Event.isPortAccess (s : State) (op : Op) (p : Port) : Event → Bool
  | .rd a _ => (readsOf op).any fun x => a == regAddr s p x
  | .wr a v => (writesOf s p op).any fun x => a == regAddr s p x.1 && v == x.2
  | _ => false

/-- The buffer of the WRITE a step serves, address and length: of the one in progress, or of the one it accepts. -/
def servedBuffer (s : State) : Option (Nat × Nat) :=
  match s.active with
  | some (.write, port) => (resolvePort port s).map fun p => ((s.port p).txbuf, (s.port p).txlen)
  | some _ => none
  | none =>
    match accepted s with
    | some (.write _ buf len) => some (buf, len.toNat)
    | _ => none

/-- The answers a device gives to one whole fetch that finds nothing: the word of the overrun check, the word of the
ready check, the word of the occupancy check (43_receive.md R182, the path not ready). -/
structure EmptyFetch where
  overrun : Word
  ready : Word
  occupancy : Word
deriving DecidableEq, Repr

/-- The answers show no full word and a zero occupancy; an overrun and every other bit are free. -/
def EmptyFetch.ok (c : Params) (f : EmptyFetch) : Bool :=
  !f.ready.getLsbD c.srRxrdy && f.occupancy &&& c.rxoccMask == 0

/-- The answers in order. -/
def EmptyFetch.answers (f : EmptyFetch) : List Word := [f.overrun, f.ready, f.occupancy]

/-- The steps of the fetch. -/
def EmptyFetch.steps (c : Params) (f : EmptyFetch) : Nat := if f.overrun.getLsbD c.srOverrun then 4 else 3

/-- The events of the fetch on port `p`. -/
def EmptyFetch.events (s : State) (p : Port) (f : EmptyFetch) : List Event :=
  [.rd (regAddr s p .sr) f.overrun] ++
  (if f.overrun.getLsbD s.cfg.srOverrun then [.wr (regAddr s p .cr) s.cfg.cmdResetErr] else []) ++
  [.rd (regAddr s p .sr) f.ready, .rd (regAddr s p .rxocc) f.occupancy]

/-- The answers of a poll: some words without the awaited bit, then one with it. -/
structure Poll where
  waits : List Word
  last : Word
deriving DecidableEq, Repr

/-- Every word of the poll but the last has bit `k` clear, and the last has it set. -/
def Poll.ok (k : Nat) (q : Poll) : Bool := (q.waits.all fun v => !v.getLsbD k) && q.last.getLsbD k

/-- The answers in order. -/
def Poll.answers (q : Poll) : List Word := q.waits ++ [q.last]

/-- How a transmit finds the FIFO: empty at once, or not empty and then a poll of the latch (42_transmit.md R144). -/
structure EmptyCheck where
  status : Word
  latch : Option Poll
deriving DecidableEq, Repr

/-- The latch is polled exactly when `SR_TXEMT` is clear, and is seen in the end. -/
def EmptyCheck.ok (c : Params) (e : EmptyCheck) : Bool :=
  match e.latch with
  | none => e.status.getLsbD c.srTxemt
  | some q => !e.status.getLsbD c.srTxemt && q.ok c.isrTxready

/-- The answers in order. -/
def EmptyCheck.answers (e : EmptyCheck) : List Word :=
  e.status :: match e.latch with
    | none => []
    | some q => q.answers

end Sys2Proof.Machine
end

