-- ==== Sys2Proof/Certificates/Slice0/Obligations.lean ====
section
/-! DEFINITION. The statements about the block, each from the rule its docstring names. -/

open Sys2Proof Sys2Proof.Machine

/-! ## Encoding -/

/-- Words of 95_test_vectors.md section 2 and 30_encoding.md R81, written out, decode as the vectors say. -/
def Obligations.SpecWordsDecodeAsWritten : Prop :=
  decode 32 { cw := 0x00000300, a := 0x1000, b := 0x2000 } = .legal (.init 3 0x1000 0x2000) ∧
  decode 32 { cw := 0x00410001, a := 0, b := 0 } = .legal (.putc 0 0x41) ∧
  decode 32 { cw := 0x0000020A, a := 0, b := 0 } = .legal (.getc 2 true) ∧
  decode 32 { cw := 0x00000303, a := 0x8000, b := 4 } = .legal (.write 3 0x8000 4) ∧
  decode 32 { cw := 0x0000FF04, a := 0, b := 0 } = .legal (.lookup 255) ∧
  decode 32 { cw := 0x00000007, a := 0, b := 0 } = .illegal .reservedOp ∧
  decode 32 { cw := 0x00000010, a := 0, b := 0 } = .illegal .reservedField ∧
  decode 32 { cw := 0x0000000B, a := 0, b := 0 } = .illegal .waitBit ∧
  decode 32 { cw := 0x00010002, a := 0, b := 0 } = .illegal .byteField

/-- Decoding the words of a well-formed instruction gives that instruction, every operand at every value. -/
def Obligations.DecodeOfEncodeIsTheInstruction : Prop :=
  ∀ (addrW : Nat) (i : Instr), i.wf addrW = true → decode addrW (encode i) = .legal i

/-- 30_encoding.md R77: a command word is legal exactly when it matches one row of the table, it is illegal exactly in
the four named cases, and operands never make an encoding illegal. -/
def Obligations.LegalWordsMatchExactlyOneRow : Prop :=
  ∀ (addrW : Nat) (r : Request),
    ((∃ i, decode addrW r = .legal i) ↔ (opTable.filter fun row => row.hits r.cw).length = 1) ∧
    ((∃ why, decode addrW r = .illegal why) ↔
      (CW.op r.cw = 5 ∨ CW.op r.cw = 6 ∨ CW.op r.cw = 7) ∨
      (CW.rsv0 r.cw ≠ 0 ∨ CW.rsv1 r.cw ≠ 0) ∨
      (CW.wait r.cw = true ∧ CW.op r.cw ≠ 2) ∨
      (CW.byte r.cw ≠ 0 ∧ CW.op r.cw ≠ 1)) ∧
    ∀ a b, (∃ i, decode addrW r = .legal i) ↔ ∃ i, decode addrW { r with a := a, b := b } = .legal i

/-- 30_encoding.md R75: the fields of a legal request decode as R75 says, and its operands `A` and `B` are what R74 makes
of them, for any address width of at least 32 (that a bus is no narrower is log entry 3) and operands that fit it. -/
def Obligations.OperandsAreTheRequestFields : Prop :=
  ∀ (addrW : Nat) (r : Request) (i : Instr), 32 ≤ addrW → r.a < 2 ^ addrW → r.b < 2 ^ addrW →
    decode addrW r = .legal i →
      i.port.toNat = r.cw.toNat / 2 ^ 8 % 2 ^ 8 ∧
      (i.op = .init → i = .init i.port r.a r.b) ∧
      (i.op = .putChar → ∃ byte : Byte, i = .putc i.port byte ∧ byte.toNat = r.cw.toNat / 2 ^ 16 % 2 ^ 8) ∧
      (i.op = .getChar → ∃ wait : Bool, i = .getc i.port wait ∧ (wait = true ↔ r.cw.toNat / 2 ^ 3 % 2 = 1)) ∧
      (i.op = .write → ∃ len : Word, i = .write i.port r.a len ∧ len.toNat = r.b % 2 ^ 32 ∧
        signedLen len = if r.b % 2 ^ 32 < 2 ^ 31 then (r.b % 2 ^ 32 : Int) else (r.b % 2 ^ 32 : Int) - 2 ^ 32) ∧
      (i.op = .lookup → i = .lookup i.port)

/-- 30_encoding.md R74: an ignored operand may hold any value and has no effect, for any address width of at least 32
(log entry 3). -/
def Obligations.IgnoredOperandsHaveNoEffect : Prop :=
  ∀ (r : Request) (a b : Nat) (i : Instr) (s : State), 32 ≤ s.cfg.addrW → decode s.cfg.addrW r = .legal i →
    (i.op = .putChar ∨ i.op = .getChar ∨ i.op = .lookup → accept { r with a := a, b := b } s = accept r s) ∧
    (i.op = .init → accept { r with b := b } s = accept r s) ∧
    (i.op = .write → b % 2 ^ 32 = r.b % 2 ^ 32 → accept { r with b := b } s = accept r s)

/-- 30_encoding.md R78: accepting an illegal command word answers `ERR_ILLEGAL`, and nothing but the response registers
changes (the response is the one event recorded). -/
def Obligations.IllegalWordIsAnsweredErrIllegal : Prop :=
  ∀ (s : State) (r : Request) (why : Illegal), Accepting s → decode s.cfg.addrW r = .illegal why →
    accept r s = .next { s with rspStatus := 0x03, rspData := 0, trace := s.trace ++ [.rsp 0x03 0] }

/-! ## Steps -/

/-- A step of a free block accepts the request the client presents, whatever its words (30_encoding.md R80); it runs what
the decoder reads of them, and the instruction itself when they are the encoding of a well-formed one. That the step takes
the request off the client's list is the model's own, log entry 6. -/
def Obligations.StepRunsTheDecodedRequest : Prop :=
  (∀ (s : State) (r : Request) (rest : List ClientAct), Accepting s → s.client = .request r :: rest →
    step s = accept r { s with client := rest } ∧
    ∀ i : Instr, decode s.cfg.addrW r = .legal i → step s = exec i { s with client := rest }) ∧
  (∀ (s : State) (rest : List ClientAct) (i : Instr),
    Accepting s → s.client = .request (encode i) :: rest → i.wf s.cfg.addrW = true →
      step s = exec i { s with client := rest })

/-- A block that is busy takes nothing from the client, and a block in `FATAL` takes no step at all until reset
(30_encoding.md R80, 60_exceptions.md R203; that the stop is a fault of the model is log entry 8). -/
def Obligations.NothingIsAcceptedWhileBusyOrFatal : Prop :=
  (∀ s : State, s.refused = none → s.resetPin = false → s.mode = .fatal → step s = .fault .registryFull) ∧
  (∀ s t : State, s.resetPin = false → s.active ≠ none → step s = .next t → t.client = s.client)

/-- 60_exceptions.md R206: the mark of a refusal stays for the rest of the run: a marked state has no next state, so no
response and no event follow, and the answer is neither (that it is the refusal of that name, also with the reset input
asserted, is log entry 10). Where a step sets the mark, it records no response. -/
def Obligations.RefusedRunsGoNoFurther : Prop :=
  (∀ (s : State) (why : Reason), s.refused = some why → step s = .refused (.marked why)) ∧
  (∀ s t : State, step s = .next t → s.refused = none ∧
    (t.refused ≠ none → ∃ es : List Event, t.trace = s.trace ++ es ∧ ∀ e ∈ es, e.isMem = true) ∧
    (t.refused ≠ none → ∃ i why, accepted s = some i ∧ t.refused = some why ∧ i.op ∈ why.ops))

/-- A free block with no request waits, and a store of the client between requests changes the one byte it names
(20_memory.md R57, R64; the client's list is the model's own, log entries 6 and 7). -/
def Obligations.FreeBlockWaitsAndTheClientStores : Prop :=
  (∀ s : State, Accepting s → s.client = [] → step s = .next s) ∧
  (∀ (s : State) (a : Nat) (v : Byte) (rest : List ClientAct),
    Accepting s → s.mem.wf = true → a < 2 ^ s.cfg.addrW → s.client = .store a v :: rest →
      ∃ m : Memory, step s = .next { s with client := rest, mem := m } ∧ m.wf = true ∧
        ∀ b, m.read b = if b = a then v else s.mem.read b)

/-- 70_reset_and_hazards.md R230 with the values of 10_state.md R38: in any state of a run that is not refused (R206: that
mark stays), an asserted reset sets every piece of block state to its reset value, with no access and no response; client
memory is not restored. -/
def Obligations.ResetSetsEveryRegister : Prop :=
  ∀ s : State, s.refused = none → s.resetPin = true → ∃ t : State, step s = .next t ∧
    t.nports = 0 ∧ (∀ p : Port, t.base.get p = 0) ∧ t.mode = .run ∧ t.active = none ∧
    t.rspStatus = 0 ∧ t.rspData = 0 ∧
    (∀ p : Port, t.port p =
      { rxc := 0, rxs := .idle, rxwait := false, rxtmp := 0, txs := .idle, txsub := .none, txsrc := .mem, txbuf := 0,
        txstg := 0, txlen := 0, txc := 0, txw := 0, txi := 0, txcur := 0, txword := 0 }) ∧
    t.trace = s.trace ∧ t.mem = s.mem

/-- 10_state.md R38: the state after reset. -/
def Obligations.ResetStateHoldsTheSpecValues : Prop :=
  State.reset.nports = 0 ∧ (∀ p : Port, State.reset.base.get p = 0) ∧ State.reset.mode = .run ∧
  State.reset.active = none ∧ State.reset.rspStatus = 0 ∧ State.reset.rspData = 0 ∧
  ∀ p : Port, State.reset.port p =
    { rxc := 0, rxs := .idle, rxwait := false, rxtmp := 0, txs := .idle, txsub := .none, txsrc := .mem, txbuf := 0,
      txstg := 0, txlen := 0, txc := 0, txw := 0, txi := 0, txcur := 0, txword := 0 }

/-! ## The port registry -/

/-- 40_registry.md R104: INIT completes, with its two reset commands and then the new entry, when the base is aligned
and the id is the next one; nothing else changes. -/
def Obligations.InitRegistersTheNextPort : Prop :=
  ∀ (s : State) (port : PortField) (uartBase clkBase : Nat) (h : s.nports.val < nPorts),
    uartBase % 4 = 0 → port.toNat = s.nports.val →
      exec (.init port uartBase clkBase) s = .next { s with
        base := s.base.set ⟨s.nports.val, h⟩ uartBase
        nports := ⟨s.nports.val + 1, Nat.succ_lt_succ h⟩
        active := none, rspStatus := 0x00, rspData := s.nports.val
        trace := s.trace ++
          [.wr (busAddr s (uartBase + s.cfg.off .cr)) s.cfg.cmdResetRx,
           .wr (busAddr s (uartBase + s.cfg.off .cr)) s.cfg.cmdResetTx,
           .rsp 0x00 s.nports.val] }

/-- 40_registry.md R105: INIT on a full registry issues its two reset commands and then faults: `MODE` is `FATAL`, there
is no response, and the registry is unchanged. That `FATAL` is entered by a next state, from which no step goes on until
reset, is the model's choice, log entry 8. -/
def Obligations.InitOnAFullRegistryIsFatal : Prop :=
  ∀ (s : State) (port : PortField) (uartBase clkBase : Nat), uartBase % 4 = 0 → s.nports = 4 →
    ∃ t : State, exec (.init port uartBase clkBase) s = .next t ∧
      t = { s with
        mode := .fatal, active := some (.init, port)
        trace := s.trace ++
          [.wr (busAddr s (uartBase + s.cfg.off .cr)) s.cfg.cmdResetRx,
           .wr (busAddr s (uartBase + s.cfg.off .cr)) s.cfg.cmdResetTx] } ∧
      (t.resetPin = false → ∀ u : State, step t ≠ .next u)

/-- 40_registry.md R102, R107: a misaligned base is refused, and an id that is not the next one is refused while the
registry is not full: the state is marked, there is no access, and nothing else changes (`ACTIVE` was set at acceptance,
30_encoding.md R80). -/
def Obligations.InitRefusesABadBaseOrId : Prop :=
  ∀ (s : State) (port : PortField) (uartBase clkBase : Nat),
    (uartBase % 4 ≠ 0 → ∃ t : State, exec (.init port uartBase clkBase) s = .next t ∧
      t = { s with refused := some .initBaseMisaligned, active := t.active }) ∧
    (uartBase % 4 = 0 → s.nports.val < 4 → port.toNat ≠ s.nports.val →
      ∃ t : State, exec (.init port uartBase clkBase) s = .next t ∧
        t = { s with refused := some .initIdNotNext, active := t.active })

/-- 40_registry.md R106: LOOKUP completes with the base of a registered port, makes no access and changes nothing but the
response registers; an id that is not registered gives `ERR_UNINIT`. -/
def Obligations.LookupRespondsTheBase : Prop :=
  ∀ (s : State) (port : PortField),
    (∀ p : Port, Registered s port p →
      exec (.lookup port) s = .next { s with
        active := none, rspStatus := 0x00, rspData := s.base.get p
        trace := s.trace ++ [.rsp 0x00 (s.base.get p)] }) ∧
    (s.nports.val ≤ port.toNat →
      exec (.lookup port) s = .next { s with
        active := none, rspStatus := 0xFF, rspData := 0, trace := s.trace ++ [.rsp 0xFF 0] })

/-- 40_registry.md R101: PUT_CHAR, GET_CHAR, WRITE and LOOKUP on an id that is not registered respond `ERR_UNINIT` before
any other check, with no access and no state change. -/
def Obligations.UnregisteredPortIsAnsweredErrUninit : Prop :=
  ∀ (s : State) (i : Instr), i.op ≠ .init → s.nports.val ≤ i.port.toNat →
    exec i s = .next { s with
      active := none, rspStatus := 0xFF, rspData := 0, trace := s.trace ++ [.rsp 0xFF 0] }

/-- 40_registry.md R108: except at reset the registry only grows, by one entry at its end. -/
def Obligations.RegistryGrowsOnlyAtItsEnd : Prop :=
  ∀ s t : State, s.resetPin = false → step s = .next t →
    s.nports.val ≤ t.nports.val ∧ t.nports.val ≤ s.nports.val + 1 ∧
    (∀ p : Port, p.val < s.nports.val → t.base.get p = s.base.get p) ∧
    (t.nports = s.nports → t.base = s.base)

/-! ## The transmit path -/

/-- 42_transmit.md R141: after the port check, a WRITE with a null buffer or a length that is not positive responds
`ERR_INVAL`, with no access and no other state change. -/
def Obligations.WriteRejectsBadArguments : Prop :=
  ∀ (s : State) (port : PortField) (p : Port) (buf : Nat) (len : Word), Registered s port p →
    (buf = 0 ∨ signedLen len ≤ 0) →
      exec (.write port buf len) s = .next { s with
        active := none, rspStatus := 0x01, rspData := 0, trace := s.trace ++ [.rsp 0x01 0] }

/-- 20_memory.md R58: a WRITE whose buffer would wrap past the top of the address space is refused: the state is marked,
with no event and nothing else changed. That the WRITE stays in `ACTIVE` is log entry 10. -/
def Obligations.WriteRefusesAWrappingBuffer : Prop :=
  ∀ (s : State) (port : PortField) (p : Port) (buf : Nat) (len : Word), Registered s port p → buf ≠ 0 →
    0 < signedLen len → 2 ^ s.cfg.addrW - 1 < buf + len.toNat - 1 →
      exec (.write port buf len) s = .next { s with refused := some .writeRangeWraps, active := some (.write, port) }

/-- 42_transmit.md R154: a count too wide for the count register is refused after the count pass and before any register
access, in WRITE and in PUT_CHAR: the state is marked, the reads of the count pass are recorded (00_scope.md R12), and
nothing else changes but the working registers R140 and R142 set. With `NCHAR_W = 32` no request reaches that refusal. -/
def Obligations.CountTooWideIsRefused : Prop :=
  (∀ (s : State) (port : PortField) (p : Port) (buf : Nat) (len : Word), Registered s port p → buf ≠ 0 →
    0 < signedLen len → buf + len.toNat ≤ 2 ^ s.cfg.addrW →
    2 ^ s.cfg.ncharW - 1 < len.toNat + (memBytes s buf len.toNat).count lf →
      ∃ t : State, exec (.write port buf len) s = .next t ∧ t = { s with
        refused := some .ncharOverflow, active := t.active
        ports := s.ports.set p { s.port p with txsrc := .mem, txbuf := buf, txlen := len.toNat }
        trace := s.trace ++ (List.range len.toNat).map fun k => .mrd (buf + k) (s.mem.read (buf + k)) }) ∧
  (∀ (s : State) (port : PortField) (p : Port) (byte : Byte), Registered s port p →
    2 ^ s.cfg.ncharW - 1 < (if byte = lf then 2 else 1) →
      ∃ t : State, exec (.putc port byte) s = .next t ∧ t = { s with
        refused := some .ncharOverflow, active := t.active
        ports := s.ports.set p { s.port p with txsrc := .stage, txstg := byte, txlen := 1 } }) ∧
  (∀ (s t : State) (i : Instr), s.cfg.ncharW = 32 → s.refused = none → exec i s = .next t →
    t.refused ≠ some .ncharOverflow)

/-- 42_transmit.md R143 for WRITE: a WRITE the checks let pass completes its start: the count pass reads each source byte
once in ascending order, `C` is the length plus the number of newlines, and the FSM enters `WAIT_FIFO_EMPTY`; no register
is accessed and nothing else changes. -/
def Obligations.WriteStartsItsTransmit : Prop :=
  ∀ (s : State) (port : PortField) (p : Port) (buf : Nat) (len : Word), Registered s port p → buf ≠ 0 →
    0 < signedLen len → buf + len.toNat ≤ 2 ^ s.cfg.addrW →
    len.toNat + (memBytes s buf len.toNat).count lf ≤ 2 ^ s.cfg.ncharW - 1 →
      exec (.write port buf len) s = .next { s with
        active := some (.write, port)
        ports := s.ports.set p { s.port p with
          txsrc := .mem, txbuf := buf, txlen := len.toNat
          txc := len.toNat + (memBytes s buf len.toNat).count lf
          txw := (len.toNat + (memBytes s buf len.toNat).count lf + 3) / 4
          txi := 0, txcur := 0, txword := 0, txs := .waitFifoEmpty, txsub := .checkEmpty }
        trace := s.trace ++ (List.range len.toNat).map fun k => .mrd (buf + k) (s.mem.read (buf + k)) }

/-- 42_transmit.md R143 for PUT_CHAR (R142): the staging byte is the source, no event is recorded, and the FSM enters
`WAIT_FIFO_EMPTY`; nothing else changes. -/
def Obligations.PutcStartsItsTransmit : Prop :=
  ∀ (s : State) (port : PortField) (p : Port) (byte : Byte), Registered s port p →
    (if byte = lf then 2 else 1) ≤ 2 ^ s.cfg.ncharW - 1 →
      exec (.putc port byte) s = .next { s with
        active := some (.putChar, port)
        ports := s.ports.set p { s.port p with
          txsrc := .stage, txstg := byte, txlen := 1, txc := if byte = lf then 2 else 1, txw := 1
          txi := 0, txcur := 0, txword := 0, txs := .waitFifoEmpty, txsub := .checkEmpty } }

/-- 42_transmit.md R144: `CHECK_EMPTY` reads `SR` once, `POLL_TXREADY` reads `ISR` once and stays until the latch is
seen; each goes to `CRITICAL_WRITE` on its bit, and nothing else changes but the device's draw. -/
def Obligations.WaitFifoEmptyStep : Prop :=
  ∀ (s : State) (op : Op) (p : Port), InProgress op p s → op = .putChar ∨ op = .write →
    (s.port p).txs = .waitFifoEmpty → (s.port p).txsub = .checkEmpty ∨ (s.port p).txsub = .pollTxready →
      ∃ t : State, step s = .next t ∧
        ((s.port p).txsub = .checkEmpty → t = { s with
          answers := t.answers, draws := t.draws
          trace := s.trace ++ [.rd (regAddr s p .sr) (answer s)]
          ports := s.ports.set p
            (if (answer s).getLsbD s.cfg.srTxemt then { s.port p with txs := .criticalWrite, txsub := .none }
             else { s.port p with txsub := .pollTxready }) }) ∧
        ((s.port p).txsub = .pollTxready → t = { s with
          answers := t.answers, draws := t.draws
          trace := s.trace ++ [.rd (regAddr s p .isr) (answer s)]
          ports := s.ports.set p
            (if (answer s).getLsbD s.cfg.isrTxready then { s.port p with txs := .criticalWrite, txsub := .none }
             else s.port p) })

/-- 42_transmit.md R145: `CRITICAL_WRITE` enters the section, programs the count, then clears the latch. -/
def Obligations.CriticalWriteStep : Prop :=
  ∀ (s : State) (op : Op) (p : Port), InProgress op p s → op = .putChar ∨ op = .write →
    (s.port p).txs = .criticalWrite → (s.port p).txsub = .none →
      step s = .next { s with
        trace := s.trace ++
          [.critEnter p, .wr (regAddr s p .nchar) (BitVec.ofNat 32 (s.port p).txc),
           .wr (regAddr s p .cr) s.cfg.cmdResetTxready]
        ports := s.ports.set p { s.port p with txs := .packAndDrain, txsub := .pack } }

/-- 41_packing.md R126, R128, R131, 42_transmit.md R146: `PACK` fills the word's lanes with the next bytes of the
physical stream, lanes no slot fills are 0, the rest of the stream is still to come, a WRITE makes one read per slot and
no register is accessed. Of memory and the staging byte only `LF` bytes of the source become `SENTINEL`. -/
def Obligations.PackTakesTheNextPhysicalBytes : Prop :=
  ∀ (s : State) (op : Op) (p : Port), Inv s → InProgress op p s → op = .putChar ∨ op = .write →
    (s.port p).txs = .packAndDrain → (s.port p).txsub = .pack →
      let n := min 4 ((s.port p).txc - 4 * (s.port p).txi)
      ∃ (t : State) (es : List Event), step s = .next t ∧ n ≤ (toCome s p).length ∧
        (∀ j, j < n → (toCome s p)[j]? = some (laneGet (t.port p).txword j)) ∧
        (∀ j, n ≤ j → j < 4 → laneGet (t.port p).txword j = 0) ∧
        toCome t p = (toCome s p).drop n ∧ (t.port p).txcur ≤ (s.port p).txlen ∧
        t.port p = { s.port p with
          txword := (t.port p).txword, txcur := (t.port p).txcur, txstg := (t.port p).txstg, txsub := .pollTxrdy } ∧
        (∀ r : Port, r ≠ p → t.port r = s.port r) ∧
        t = { s with ports := t.ports, mem := t.mem, trace := s.trace ++ es } ∧
        (∀ e ∈ es, e.isMem = true) ∧
        (op = .putChar → es = [] ∧ t.mem = s.mem) ∧
        (op = .write → (es.filter fun e => match e with | .mrd _ _ => true | _ => false).length = n ∧
          (t.port p).txstg = (s.port p).txstg) ∧
        (∀ k, k < (s.port p).txlen → srcByte t p k = srcByte s p k ∨ (srcByte s p k = lf ∧ srcByte t p k = sentinel)) ∧
        (∀ a, (∀ k, k < (s.port p).txlen → a ≠ srcAddr s p k) → t.mem.read a = s.mem.read a)

/-- 42_transmit.md R147: `POLL_TXRDY` reads `SR` once and stays until the bit is seen; nothing else changes but the
device's draw. -/
def Obligations.PollTxrdyStep : Prop :=
  ∀ (s : State) (op : Op) (p : Port), InProgress op p s → op = .putChar ∨ op = .write →
    (s.port p).txs = .packAndDrain → (s.port p).txsub = .pollTxrdy →
      ∃ t : State, step s = .next t ∧ t = { s with
        answers := t.answers, draws := t.draws
        trace := s.trace ++ [.rd (regAddr s p .sr) (answer s)]
        ports := s.ports.set p
          (if (answer s).getLsbD s.cfg.srTxrdy then { s.port p with txsub := .push } else s.port p) }

/-- 42_transmit.md R148, R149: `PUSH` writes the word to the FIFO and advances the word index; after the last word the
critical section ends with no access between. -/
def Obligations.PushStep : Prop :=
  ∀ (s : State) (op : Op) (p : Port), InProgress op p s → op = .putChar ∨ op = .write →
    (s.port p).txs = .packAndDrain → (s.port p).txsub = .push →
      ((s.port p).txi + 1 < (s.port p).txw → step s = .next { s with
        trace := s.trace ++ [.wr (regAddr s p .tf) (s.port p).txword]
        ports := s.ports.set p { s.port p with txi := (s.port p).txi + 1, txsub := .pack } }) ∧
      ((s.port p).txw ≤ (s.port p).txi + 1 → step s = .next { s with
        trace := s.trace ++ [.wr (regAddr s p .tf) (s.port p).txword, .critExit p]
        ports := s.ports.set p { s.port p with txi := (s.port p).txi + 1, txsub := .restore } })

/-- 41_packing.md R127, 42_transmit.md R150: the restore pass reads every source byte once in ascending order and writes
back only the bytes that hold `SENTINEL`; then the FSM is `IDLE` and the request is answered. Every other byte of memory
and every other register is unchanged. -/
def Obligations.RestoreStepEndsTheTransmit : Prop :=
  ∀ (s : State) (op : Op) (p : Port), Inv s → InProgress op p s → op = .putChar ∨ op = .write →
    (s.port p).txs = .packAndDrain → (s.port p).txsub = .restore →
      ∃ t : State, step s = .next t ∧
        t = { s with
          active := none, rspStatus := 0x00, rspData := 0, mem := t.mem, trace := t.trace
          ports := s.ports.set p { s.port p with txs := .idle, txsub := .none, txstg := (t.port p).txstg } } ∧
        (op = .putChar → t.mem = s.mem ∧ t.trace = s.trace ++ [.rsp 0x00 0] ∧
          (t.port p).txstg = if (s.port p).txstg = sentinel then lf else (s.port p).txstg) ∧
        (op = .write → (t.port p).txstg = (s.port p).txstg ∧
          t.trace = s.trace ++
            (List.range (s.port p).txlen).flatMap (fun k =>
              .mrd ((s.port p).txbuf + k) (s.mem.read ((s.port p).txbuf + k)) ::
              if s.mem.read ((s.port p).txbuf + k) = sentinel then [.mwr ((s.port p).txbuf + k) lf] else []) ++
            [.rsp 0x00 0] ∧
          ∀ a, t.mem.read a =
            if (s.port p).txbuf ≤ a ∧ a < (s.port p).txbuf + (s.port p).txlen ∧ s.mem.read a = sentinel then lf
            else s.mem.read a)

/-- 42_transmit.md R152, 60_exceptions.md R207: both transmit polls repeat as long as the device answers without the
awaited bit, whatever the other bits, any number of times; nothing changes but the answers taken and the reads recorded.
(How the model holds the answers is its own, log entry 2.) -/
def Obligations.TransmitPollsRepeatWithoutBound : Prop :=
  ∀ (vs : List Word) (s : State) (op : Op) (p : Port) (rest : List Word), InProgress op p s →
    op = .putChar ∨ op = .write → s.answers = vs ++ rest →
      ((s.port p).txs = .waitFifoEmpty → (s.port p).txsub = .pollTxready →
        (∀ v ∈ vs, v.getLsbD s.cfg.isrTxready = false) →
          run vs.length s = .next { s with
            answers := rest, draws := s.draws + vs.length
            trace := s.trace ++ vs.map (.rd (regAddr s p .isr)) }) ∧
      ((s.port p).txs = .packAndDrain → (s.port p).txsub = .pollTxrdy →
        (∀ v ∈ vs, v.getLsbD s.cfg.srTxrdy = false) →
          run vs.length s = .next { s with
            answers := rest, draws := s.draws + vs.length
            trace := s.trace ++ vs.map (.rd (regAddr s p .sr)) })

/-- 42_transmit.md R155: with a device that answers empty and ready, PUT_CHAR runs to its response in six steps after its
start, with the count, the FIFO word and the events of the table, and no client-memory access. -/
def Obligations.PutcRunsToItsResponse : Prop :=
  ∀ (s : State) (port : PortField) (p : Port) (byte : Byte) (v1 v2 : Word) (rest : List Word),
    Registered s port p → s.refused = none → s.resetPin = false → s.mode = .run →
    (if byte = lf then 2 else 1) ≤ 2 ^ s.cfg.ncharW - 1 →
    s.answers = v1 :: v2 :: rest → v1.getLsbD s.cfg.srTxemt = true → v2.getLsbD s.cfg.srTxrdy = true →
      ∃ s1 t : State, exec (.putc port byte) s = .next s1 ∧ run 6 s1 = .next t ∧
        t.trace = s.trace ++
          [.rd (regAddr s p .sr) v1, .critEnter p, .wr (regAddr s p .nchar) (if byte = lf then 2 else 1),
           .wr (regAddr s p .cr) s.cfg.cmdResetTxready, .rd (regAddr s p .sr) v2,
           .wr (regAddr s p .tf)
             (if byte = lf then 0x00000A0D else if byte = sentinel then 0x0000000A else byte.setWidth 32),
           .critExit p, .rsp 0x00 0] ∧
        t.answers = rest ∧ t.active = none ∧ t.rspStatus = 0x00 ∧ t.rspData = 0 ∧
        t.mem = s.mem ∧ t.nports = s.nports ∧ t.base = s.base ∧ t.mode = .run ∧ t.refused = none ∧
        (t.port p).txs = .idle ∧ (t.port p).txsub = .none ∧ SameRx (t.port p) (s.port p) ∧
        ∀ r : Port, r ≠ p → t.port r = s.port r

/-- 41_packing.md R128, R130, 42_transmit.md R151: with a device that always answers ready, a WRITE runs from its start
to its response; the words it writes to the FIFO carry, lane by lane, exactly the expanded source bytes; `NCHAR` gets
their number; and every byte of memory ends as it began, but a `SENTINEL` in the buffer, which ends as `LF`. -/
def Obligations.WriteSendsItsExpandedBytes : Prop :=
  ∀ (s : State) (port : PortField) (p : Port) (buf : Nat) (len : Word) (rest : List Word),
    s.cfg.wf = true → s.mem.wf = true → Registered s port p → s.refused = none → s.resetPin = false → s.mode = .run →
    buf ≠ 0 → 0 < signedLen len → buf + len.toNat ≤ 2 ^ s.cfg.addrW →
    let stream := (memBytes s buf len.toNat).flatMap expand
    let c := len.toNat + (memBytes s buf len.toNat).count lf
    let w := (c + 3) / 4
    c ≤ 2 ^ s.cfg.ncharW - 1 → s.answers = List.replicate (w + 1) (BitVec.allOnes 32) ++ rest →
      ∃ (s1 t : State) (es : List Event),
        exec (.write port buf len) s = .next s1 ∧ run (3 * w + 3) s1 = .next t ∧
        t.trace = s.trace ++ es ∧ (fifoWords s p es).length = w ∧
        ((fifoWords s p es).flatMap lanes).take c = stream ∧ stream.length = c ∧
        (es.filter fun e => match e with | .wr a _ => a == regAddr s p .nchar | _ => false) =
          [.wr (regAddr s p .nchar) (BitVec.ofNat 32 c)] ∧
        es.getLast? = some (.rsp 0x00 0) ∧
        (∀ a, t.mem.read a =
          if buf ≤ a ∧ a < buf + len.toNat ∧ s.mem.read a = sentinel then lf else s.mem.read a) ∧
        t.active = none ∧ t.rspStatus = 0x00 ∧ t.rspData = 0 ∧ t.answers = rest ∧
        t.mode = .run ∧ t.refused = none ∧
        t.nports = s.nports ∧ t.base = s.base ∧ (t.port p).txs = .idle ∧ SameRx (t.port p) (s.port p) ∧
        ∀ r : Port, r ≠ p → t.port r = s.port r

/-- 41_packing.md R128, R130, 42_transmit.md R151, R152: the same with any device that answers every poll in the end: the
FIFO empty at once or after a poll of the latch, and one poll of `SR` for each word, each with any number of reads before
the awaited bit. (How the model holds the answers is its own, log entry 2.) -/
def Obligations.WriteSendsItsBytesThroughAnyPolls : Prop :=
  ∀ (s : State) (port : PortField) (p : Port) (buf : Nat) (len : Word) (e : EmptyCheck) (qs : List Poll)
    (rest : List Word),
    s.cfg.wf = true → s.mem.wf = true → Registered s port p → s.refused = none → s.resetPin = false → s.mode = .run →
    buf ≠ 0 → 0 < signedLen len → buf + len.toNat ≤ 2 ^ s.cfg.addrW →
    let stream := (memBytes s buf len.toNat).flatMap expand
    let c := len.toNat + (memBytes s buf len.toNat).count lf
    c ≤ 2 ^ s.cfg.ncharW - 1 → qs.length = (c + 3) / 4 →
    e.ok s.cfg = true → (∀ q ∈ qs, q.ok s.cfg.srTxrdy = true) →
    s.answers = e.answers ++ qs.flatMap Poll.answers ++ rest →
      ∃ (s1 t : State) (es : List Event),
        exec (.write port buf len) s = .next s1 ∧
        run (e.answers.length + (qs.flatMap Poll.answers).length + 2 * qs.length + 2) s1 = .next t ∧
        t.trace = s.trace ++ es ∧ (fifoWords s p es).length = qs.length ∧
        ((fifoWords s p es).flatMap lanes).take c = stream ∧ stream.length = c ∧
        (es.filter fun ev => match ev with | .wr a _ => a == regAddr s p .nchar | _ => false) =
          [.wr (regAddr s p .nchar) (BitVec.ofNat 32 c)] ∧
        (es.filterMap fun ev => match ev with | .rd _ v => some v | _ => none) =
          e.answers ++ qs.flatMap Poll.answers ∧
        es.getLast? = some (.rsp 0x00 0) ∧
        (∀ a, t.mem.read a =
          if buf ≤ a ∧ a < buf + len.toNat ∧ s.mem.read a = sentinel then lf else s.mem.read a) ∧
        t.active = none ∧ t.rspStatus = 0x00 ∧ t.rspData = 0 ∧ t.answers = rest ∧
        t.mode = .run ∧ t.refused = none ∧
        t.nports = s.nports ∧ t.base = s.base ∧ (t.port p).txs = .idle ∧ SameRx (t.port p) (s.port p) ∧
        ∀ r : Port, r ≠ p → t.port r = s.port r

/-! ## Packing -/

/-- 41_packing.md R121: the lanes of a word, of a word with one lane replaced, and of four packed bytes. -/
def Obligations.LanesAreLittleEndian : Prop :=
  (∀ (w : Word) (j : Nat), j < 4 → (laneGet w j).toNat = w.toNat / 2 ^ (8 * j) % 2 ^ 8) ∧
  (∀ (w : Word) (b : Byte) (j k : Nat), j < 4 → k < 4 →
    laneGet (lanePut w j b) k = if k = j then b else laneGet w k) ∧
  (∀ b0 b1 b2 b3 : Byte,
    (pack4 b0 b1 b2 b3).toNat = b0.toNat + 2 ^ 8 * b1.toNat + 2 ^ 16 * b2.toNat + 2 ^ 24 * b3.toNat)

/-- 41_packing.md R122: unpacking takes the low lane and shifts logically; four times it gives the four lanes in order
and leaves 0, so packed bytes come back in packing order. -/
def Obligations.UnpackingGivesTheLanesInOrder : Prop :=
  (∀ w : Word, (unpackByte w).toNat = w.toNat % 2 ^ 8 ∧ (unpackRest w).toNat = w.toNat / 2 ^ 8) ∧
  (∀ w : Word,
    unpackByte w = laneGet w 0 ∧ unpackByte (unpackRest w) = laneGet w 1 ∧
    unpackByte (unpackRest (unpackRest w)) = laneGet w 2 ∧
    unpackByte (unpackRest (unpackRest (unpackRest w))) = laneGet w 3 ∧
    unpackRest (unpackRest (unpackRest (unpackRest w))) = 0) ∧
  (∀ b0 b1 b2 b3 : Byte, lanes (pack4 b0 b1 b2 b3) = [b0, b1, b2, b3])

/-- 41_packing.md R125: the number of words, and the slots of each, which add up to the count. -/
def Obligations.SlotsOfTheWordsAddUpToTheCount : Prop :=
  ∀ c : Nat, 1 ≤ c →
    4 * (wordCount c - 1) < c ∧ c ≤ 4 * wordCount c ∧
    (∀ i, i < wordCount c → nslots c i = min 4 (c - 4 * i) ∧ 1 ≤ nslots c i ∧ nslots c i ≤ 4) ∧
    (∀ i, i + 1 < wordCount c → nslots c i = 4) ∧
    nslots c (wordCount c - 1) = c - 4 * (wordCount c - 1) ∧
    ((List.range (wordCount c)).map (nslots c)).sum = c

/-- 41_packing.md R132: after `m` extractions the cache is empty exactly when every lane from `m` on is zero, and the
next byte is lane `m`. -/
def Obligations.CacheEmptiesWhenTheUpperLanesAreZero : Prop :=
  ∀ (w : Word) (m : Nat), m ≤ 4 →
    (unpackRest^[m] w = w >>> (8 * m)) ∧
    (unpackRest^[m] w = 0 ↔ ∀ j, m ≤ j → j < 4 → laneGet w j = 0) ∧
    (m < 4 → unpackByte (unpackRest^[m] w) = laneGet w m)

/-! ## The receive path -/

/-- 43_receive.md R170, R173, R179: on a registered port GET_CHAR completes: a cached byte is answered at once, with no
register access, and the cache shifts; an empty cache starts a fetch at `F_OVR_CHECK`. Nothing else changes. -/
def Obligations.GetcDrainsTheCacheOrStartsAFetch : Prop :=
  ∀ (s : State) (port : PortField) (p : Port) (wait : Bool), Registered s port p →
    ((s.port p).rxc ≠ 0 → exec (.getc port wait) s = .next { s with
      active := none, rspStatus := 0x00, rspData := (s.port p).rxc.toNat % 256
      ports := s.ports.set p { s.port p with rxc := (s.port p).rxc >>> 8 }
      trace := s.trace ++ [.rsp 0x00 ((s.port p).rxc.toNat % 256)] }) ∧
    ((s.port p).rxc = 0 → exec (.getc port wait) s = .next { s with
      active := some (.getChar, port)
      ports := s.ports.set p { s.port p with rxwait := wait, rxs := .fOvrCheck } })

/-- 43_receive.md R172, R175, R176, R177, on the sub-states of the table of R171: each makes its one access and goes to
the next one, an overrun is cleared and not reported, `READY` loads the cache and answers its first byte, `NOT_READY`
leaves the cache alone and answers or fetches again; nothing else changes but the device's draw. -/
def Obligations.FetchFollowsItsTable : Prop :=
  ∀ (s : State) (p : Port), InProgress .getChar p s → (s.port p).rxs ≠ .idle →
    let q := s.port p
    let v := answer s
    ∃ t : State, step s = .next t ∧
      (q.rxs = .fOvrCheck → t = { s with
        answers := t.answers, draws := t.draws, trace := s.trace ++ [.rd (regAddr s p .sr) v]
        ports := s.ports.set p { q with
          rxs := if v.getLsbD s.cfg.srOverrun then .fOvrClear else .fRdyCheck } }) ∧
      (q.rxs = .fOvrClear → t = { s with
        trace := s.trace ++ [.wr (regAddr s p .cr) s.cfg.cmdResetErr]
        ports := s.ports.set p { q with rxs := .fRdyCheck } }) ∧
      (q.rxs = .fRdyCheck → t = { s with
        answers := t.answers, draws := t.draws, trace := s.trace ++ [.rd (regAddr s p .sr) v]
        ports := s.ports.set p { q with rxs := if v.getLsbD s.cfg.srRxrdy then .fRead else .fOccCheck } }) ∧
      (q.rxs = .fRead → t = { s with
        answers := t.answers, draws := t.draws
        active := none, rspStatus := 0x00, rspData := v.toNat % 256
        trace := s.trace ++ [.rd (regAddr s p .rf) v, .rsp 0x00 (v.toNat % 256)]
        ports := s.ports.set p { q with rxtmp := v, rxc := v >>> 8, rxs := .idle } }) ∧
      (q.rxs = .fOccCheck → v &&& s.cfg.rxoccMask ≠ 0 → t = { s with
        answers := t.answers, draws := t.draws, trace := s.trace ++ [.rd (regAddr s p .rxocc) v]
        ports := s.ports.set p { q with rxs := .fForceStale } }) ∧
      (q.rxs = .fOccCheck → v &&& s.cfg.rxoccMask = 0 → q.rxwait = true → t = { s with
        answers := t.answers, draws := t.draws, trace := s.trace ++ [.rd (regAddr s p .rxocc) v]
        ports := s.ports.set p { q with rxs := .fOvrCheck } }) ∧
      (q.rxs = .fOccCheck → v &&& s.cfg.rxoccMask = 0 → q.rxwait = false → t = { s with
        answers := t.answers, draws := t.draws
        active := none, rspStatus := 0x02, rspData := 0
        trace := s.trace ++ [.rd (regAddr s p .rxocc) v, .rsp 0x02 0]
        ports := s.ports.set p { q with rxs := .idle } }) ∧
      (q.rxs = .fForceStale → t = { s with
        trace := s.trace ++ [.wr (regAddr s p .cr) s.cfg.cmdForceStale]
        ports := s.ports.set p { q with rxs := .fStaleRead } }) ∧
      (q.rxs = .fStaleRead → t = { s with
        answers := t.answers, draws := t.draws, trace := s.trace ++ [.rd (regAddr s p .rf) v]
        ports := s.ports.set p { q with rxtmp := v, rxs := .fResetStale } }) ∧
      (q.rxs = .fResetStale → t = { s with
        trace := s.trace ++ [.wr (regAddr s p .cr) s.cfg.cmdResetStale]
        ports := s.ports.set p { q with rxs := .fRearm } }) ∧
      (q.rxs = .fRearm → t = { s with
        active := none, rspStatus := 0x00, rspData := q.rxtmp.toNat % 256
        trace := s.trace ++ [.wr (regAddr s p .rxwm) s.cfg.rxwmRearm, .rsp 0x00 (q.rxtmp.toNat % 256)]
        ports := s.ports.set p { q with rxc := q.rxtmp >>> 8, rxs := .idle } })

/-- 43_receive.md R182, the ready paths: a GET_CHAR that finds its cache empty and the device ready runs to its response,
with an overrun cleared and not reported (R175), and the cache holds the rest of the word. -/
def Obligations.GetcFetchesAReadyWord : Prop :=
  ∀ (s : State) (port : PortField) (p : Port) (wait : Bool) (v1 v2 w : Word) (rest : List Word),
    Registered s port p → s.refused = none → s.resetPin = false → s.mode = .run → (s.port p).rxc = 0 →
    s.answers = v1 :: v2 :: w :: rest → v2.getLsbD s.cfg.srRxrdy = true →
      ∃ s1 : State, exec (.getc port wait) s = .next s1 ∧
        run (if v1.getLsbD s.cfg.srOverrun then 4 else 3) s1 = .next { s with
          active := none, rspStatus := 0x00, rspData := w.toNat % 256, answers := rest, draws := s.draws + 3
          ports := s.ports.set p { s.port p with rxc := w >>> 8, rxtmp := w, rxwait := wait, rxs := .idle }
          trace := s.trace ++ [.rd (regAddr s p .sr) v1] ++
            (if v1.getLsbD s.cfg.srOverrun then [.wr (regAddr s p .cr) s.cfg.cmdResetErr] else []) ++
            [.rd (regAddr s p .sr) v2, .rd (regAddr s p .rf) w, .rsp 0x00 (w.toNat % 256)] }

/-- 43_receive.md R177, R182, the forced-stale path: with no full word ready and a non-zero occupancy, GET_CHAR forces
the partial word out, reads it once, resets the stale condition, re-arms the watermark and responds. -/
def Obligations.GetcForcesAPartialWordOut : Prop :=
  ∀ (s : State) (port : PortField) (p : Port) (wait : Bool) (v1 v2 v3 w : Word) (rest : List Word),
    Registered s port p → s.refused = none → s.resetPin = false → s.mode = .run → (s.port p).rxc = 0 →
    s.answers = v1 :: v2 :: v3 :: w :: rest → v2.getLsbD s.cfg.srRxrdy = false → v3 &&& s.cfg.rxoccMask ≠ 0 →
      ∃ s1 : State, exec (.getc port wait) s = .next s1 ∧
        run (if v1.getLsbD s.cfg.srOverrun then 8 else 7) s1 = .next { s with
          active := none, rspStatus := 0x00, rspData := w.toNat % 256, answers := rest, draws := s.draws + 4
          ports := s.ports.set p { s.port p with rxc := w >>> 8, rxtmp := w, rxwait := wait, rxs := .idle }
          trace := s.trace ++ [.rd (regAddr s p .sr) v1] ++
            (if v1.getLsbD s.cfg.srOverrun then [.wr (regAddr s p .cr) s.cfg.cmdResetErr] else []) ++
            [.rd (regAddr s p .sr) v2, .rd (regAddr s p .rxocc) v3,
             .wr (regAddr s p .cr) s.cfg.cmdForceStale, .rd (regAddr s p .rf) w,
             .wr (regAddr s p .cr) s.cfg.cmdResetStale, .wr (regAddr s p .rxwm) s.cfg.rxwmRearm,
             .rsp 0x00 (w.toNat % 256)] }

/-- 43_receive.md R170, R172: with an empty device queue, a GET_CHAR that does not wait runs one fetch and responds
`ERR_RX_NOT_READY`, and its receive cache is not changed. -/
def Obligations.GetcReportsAnEmptyQueue : Prop :=
  ∀ (s : State) (port : PortField) (p : Port) (v1 v2 v3 : Word) (rest : List Word),
    Registered s port p → s.refused = none → s.resetPin = false → s.mode = .run → (s.port p).rxc = 0 →
    s.answers = v1 :: v2 :: v3 :: rest → v2.getLsbD s.cfg.srRxrdy = false → v3 &&& s.cfg.rxoccMask = 0 →
      ∃ s1 : State, exec (.getc port false) s = .next s1 ∧
        run (if v1.getLsbD s.cfg.srOverrun then 4 else 3) s1 = .next { s with
          active := none, rspStatus := 0x02, rspData := 0, answers := rest, draws := s.draws + 3
          ports := s.ports.set p { s.port p with rxwait := false, rxs := .idle }
          trace := s.trace ++ [.rd (regAddr s p .sr) v1] ++
            (if v1.getLsbD s.cfg.srOverrun then [.wr (regAddr s p .cr) s.cfg.cmdResetErr] else []) ++
            [.rd (regAddr s p .sr) v2, .rd (regAddr s p .rxocc) v3, .rsp 0x02 0] }

/-- 43_receive.md R178: a waiting GET_CHAR retries the whole fetch as long as the device has nothing, any number of times,
each fetch with whatever words show no full word and a zero occupancy, an overrun being cleared where one is shown; there
is no response and nothing changes but the answers taken and the events recorded. (How the model holds the answers is its
own, log entry 2.) -/
def Obligations.WaitingGetcRetriesWithoutBound : Prop :=
  ∀ (fs : List EmptyFetch) (s : State) (p : Port) (rest : List Word), InProgress .getChar p s →
    (s.port p).rxs = .fOvrCheck → (s.port p).rxwait = true → (∀ f ∈ fs, f.ok s.cfg = true) →
    s.answers = fs.flatMap EmptyFetch.answers ++ rest →
      run (fs.map (EmptyFetch.steps s.cfg)).sum s = .next { s with
        answers := rest, draws := s.draws + 3 * fs.length
        trace := s.trace ++ fs.flatMap (EmptyFetch.events s p) }

/-! ## Frames and whole-machine rules -/

/-- What no instruction changes when it is accepted, and what each one leaves alone: client memory, the inputs and the
parameters always; the registry and `MODE` but for INIT; the mark of a refusal but for a request that refuses for that
reason; every other port always; of its own port PUT_CHAR and WRITE only transmit registers, GET_CHAR only receive
registers, INIT and LOOKUP none (10_state.md R32). -/
def Obligations.AcceptedRequestsKeepTheirFrame : Prop :=
  ∀ (i : Instr) (s t : State), exec i s = .next t →
    t.cfg = s.cfg ∧ t.mem = s.mem ∧ t.client = s.client ∧ t.answers = s.answers ∧ t.draws = s.draws ∧
    t.resetPin = s.resetPin ∧
    (i.op ≠ .init → t.nports = s.nports ∧ t.base = s.base ∧ t.mode = s.mode) ∧
    (t.refused = s.refused ∨ ∃ why, t.refused = some why ∧ i.op ∈ why.ops) ∧
    (∀ r : Port, r.val ≠ i.port.toNat → t.port r = s.port r) ∧
    (∀ r : Port, (i.op = .putChar ∨ i.op = .write) → SameRx (t.port r) (s.port r)) ∧
    (∀ r : Port, i.op = .getChar → SameTx (t.port r) (s.port r)) ∧
    (i.op = .init ∨ i.op = .lookup → t.ports = s.ports)

/-- 10_state.md R32: only the rules of the request a step serves write, and only what is theirs: transmit rules the
transmit registers of their port, receive rules its receive registers, INIT the registry, and no request another port's
state; reset writes all of them. -/
def Obligations.OnlyTheServedRequestWrites : Prop :=
  ∀ s t : State, step s = .next t →
    (s.resetPin = false →
      (∀ r : Port, SameTx (t.port r) (s.port r) ∨ ∃ op port, served s = some (op, port) ∧ r.val = port.toNat ∧
        (op = .putChar ∨ op = .write)) ∧
      (∀ r : Port, SameRx (t.port r) (s.port r) ∨ ∃ op port, served s = some (op, port) ∧ r.val = port.toNat ∧
        op = .getChar) ∧
      ((t.nports = s.nports ∧ t.base = s.base) ∨ ∃ port, served s = some (.init, port) ∧ s.active = none)) ∧
    (s.resetPin = true → t.nports = 0 ∧ (∀ r : Port, t.base.get r = 0 ∧ t.port r = PortState.reset))

/-- 10_state.md R33, 20_memory.md R50, R62: a step adds its events after the earlier ones, at most one of them a register
read. Every register access is one that the operation it serves makes on the registered port it names, with the values it
writes there, or one of the two commands of the INIT it accepts, at that INIT's base; LOOKUP makes none. Client memory is
accessed by WRITE alone, and, where the invariant holds, only at the bytes of its buffer. -/
def Obligations.StepsAccessOnlyWhatTheirRequestMay : Prop :=
  ∀ s t : State, ControlInv s → s.resetPin = false → step s = .next t →
    ∃ es : List Event, t.trace = s.trace ++ es ∧ (es.filter Event.isBusRead).length ≤ 1 ∧
      (∀ e ∈ es, e.isBus = true →
        (∃ (op : Op) (port : PortField) (p : Port), s.active = some (op, port) ∧ Registered s port p ∧
          e.isPortAccess s op p = true) ∨
        (∃ port uartBase clkBase, accepted s = some (.init port uartBase clkBase) ∧
          (e = .wr (busAddr s (uartBase + s.cfg.offCR)) s.cfg.cmdResetRx ∨
           e = .wr (busAddr s (uartBase + s.cfg.offCR)) s.cfg.cmdResetTx))) ∧
      (∀ e ∈ es, e.isMem = true → (∃ port, served s = some (.write, port)) ∧
        (Inv s → ∃ buf n k, servedBuffer s = some (buf, n) ∧ k < n ∧ e.memAddr = some (busAddr s (buf + k))))

/-- 20_memory.md R60, 42_transmit.md R149: a step records `CritEnter(p)` exactly when port `p` enters its critical section
and `CritExit(p)` exactly when it leaves it. -/
def Obligations.CriticalSectionEventsMarkItsEnds : Prop :=
  ∀ (s t : State) (es : List Event), ControlInv s → s.resetPin = false → step s = .next t →
    t.trace = s.trace ++ es → ∀ p : Port,
      (Event.critEnter p ∈ es ↔ (s.port p).inCritical = false ∧ (t.port p).inCritical = true) ∧
      (Event.critExit p ∈ es ↔ (s.port p).inCritical = true ∧ (t.port p).inCritical = false)

/-- 20_memory.md R54, R55: the value of a step's register read is the one the device gives to that step, each read takes
one draw, and a step that reads no register takes none; the reset takes none either. (How the model holds the draws is its
own, log entry 2.) -/
def Obligations.EachRegisterReadTakesOneDraw : Prop :=
  ∀ (s t : State) (es : List Event), step s = .next t → t.trace = s.trace ++ es →
    (∀ a v, .rd a v ∈ es → v = answer s) ∧
    t.draws = s.draws + (es.filter Event.isBusRead).length ∧
    t.answers = s.answers.drop (es.filter Event.isBusRead).length

/-- 41_packing.md R131, 20_memory.md R50(b): a step changes a byte of client memory only where a WRITE in progress packs
an `LF` of its buffer (to `SENTINEL`) or restores a `SENTINEL` of it (to `LF`), or where the client itself stores. -/
def Obligations.ClientMemoryChangesOnlyInTheBuffer : Prop :=
  ∀ s t : State, Inv s → s.resetPin = false → step s = .next t → ∀ a, t.mem.read a ≠ s.mem.read a →
    (s.active = none ∧ ∃ b v rest, s.client = .store b v :: rest ∧ a = busAddr s b ∧ t.mem.read a = v) ∨
    (∃ (p : Port) (k : Nat), InProgress .write p s ∧ k < (s.port p).txlen ∧ a = srcAddr s p k ∧
      (((s.port p).txsub = .pack ∧ s.mem.read a = lf ∧ t.mem.read a = sentinel) ∨
       ((s.port p).txsub = .restore ∧ s.mem.read a = sentinel ∧ t.mem.read a = lf)))

/-- 20_memory.md R53, 10_state.md R35: every register address of a registered port is an aligned address of the bus, and
different registers of one port have different addresses. -/
def Obligations.RegisterAddressesAreAlignedAndDistinct : Prop :=
  ∀ (s : State) (p : Port), s.cfg.wf = true → RegistryInv s →
    (∀ x : Reg, regAddr s p x % 4 = 0 ∧ regAddr s p x < 2 ^ s.cfg.addrW) ∧
    (∀ x y : Reg, x ≠ y → regAddr s p x ≠ regAddr s p y)

/-! ## Invariants -/

/-- The invariant holds in the state after reset. -/
def Obligations.InvHoldsAtReset : Prop := Inv State.reset

/-- Every step keeps client memory in canonical form and inside the address space. -/
def Obligations.StepsKeepMemoryCanonical : Prop := ∀ s t : State, MemInv s → step s = .next t → MemInv t

/-- Every step keeps the registry: aligned bases, and reset values above the count (40_registry.md R102, R108). -/
def Obligations.StepsKeepTheRegistry : Prop := ∀ s t : State, RegistryInv s → step s = .next t → RegistryInv t

/-- Every step keeps `MODE`, `ACTIVE` and the FSM registers in agreement: one request at a time, sub-states as R30 lists
them, `FATAL` only on a full registry. -/
def Obligations.StepsKeepControl : Prop := ∀ s t : State, ControlInv s → step s = .next t → ControlInv t

/-- Every step keeps the whole invariant, the bounds of 10_state.md R31 and the slot ledger of 41_packing.md R129 among
it: the cursor never passes `N`, and after the last word it is `N`. -/
def Obligations.StepsKeepTheInvariant : Prop := ∀ s t : State, Inv s → step s = .next t → Inv t

/-- 60_exceptions.md R200, R203, R206: in a state that keeps the control invariant a step always has a rule: it is refused
exactly when the state carries the mark of a refusal, and for that reason; it faults exactly when `MODE` is `FATAL` and no
reset is asserted (log entries 8 and 10); in every other state it goes on. -/
def Obligations.EveryControlledStateHasARule : Prop :=
  ∀ s : State, ControlInv s →
    ((∃ f, step s = .fault f) ↔ s.refused = none ∧ s.resetPin = false ∧ s.mode = .fatal) ∧
    (∀ why, step s = .refused why ↔ ∃ reason, s.refused = some reason ∧ why = .marked reason) ∧
    (s.refused = none → (s.resetPin = true ∨ s.mode = .run) → ∃ t, step s = .next t)
end

