-- ==== Sys2Proof/Laws/State.lean ====
section
/-! SUPPORT. The fields of a state after each update: one lemma per field per update. -/

namespace Sys2Proof.Machine

/-! ### One entry per port -/

@[simp] theorem PerPort.get_all {α : Type} (x : α) (p : Port) : (PerPort.all x).get p = x := by
  fin_cases p <;> rfl

@[simp] theorem PerPort.get_set_self {α : Type} (t : PerPort α) (p : Port) (x : α) : (t.set p x).get p = x := by
  fin_cases p <;> rfl

theorem PerPort.get_set_ne {α : Type} (t : PerPort α) {p r : Port} (x : α) (h : r ≠ p) :
    (t.set p x).get r = t.get r := by
  fin_cases p <;> fin_cases r <;> first | rfl | exact absurd rfl h

theorem PerPort.get_set {α : Type} (t : PerPort α) (p r : Port) (x : α) :
    (t.set p x).get r = if r = p then x else t.get r := by
  by_cases h : r = p
  · subst h; simp
  · simp [PerPort.get_set_ne t x h, h]

@[simp] theorem PerPort.set_set {α : Type} (t : PerPort α) (p : Port) (x y : α) : (t.set p x).set p y = t.set p y := by
  fin_cases p <;> rfl

@[simp] theorem PerPort.set_get {α : Type} (t : PerPort α) (p : Port) : t.set p (t.get p) = t := by
  fin_cases p <;> rfl

theorem PerPort.ext_get {α : Type} {t u : PerPort α} (h : ∀ p : Port, t.get p = u.get p) : t = u := by
  cases t; cases u
  have h0 := h 0; have h1 := h 1; have h2 := h 2; have h3 := h 3
  simp only [PerPort.get] at h0 h1 h2 h3
  subst h0 h1 h2 h3; rfl

@[simp] theorem setPort_port_self (s : State) (p : Port) (q : PortState) : (s.setPort p q).port p = q :=
  PerPort.get_set_self _ _ _

theorem setPort_port_ne (s : State) {p r : Port} (q : PortState) (h : r ≠ p) : (s.setPort p q).port r = s.port r :=
  PerPort.get_set_ne _ _ h

theorem setPort_port (s : State) (p r : Port) (q : PortState) :
    (s.setPort p q).port r = if r = p then q else s.port r :=
  PerPort.get_set _ _ _ _

@[simp] theorem setPort_setPort (s : State) (p : Port) (q q' : PortState) :
    (s.setPort p q).setPort p q' = s.setPort p q' := by
  simp [State.setPort]

@[simp] theorem setPort_port_eq (s : State) (p : Port) : s.setPort p (s.port p) = s := by
  simp [State.setPort, State.port]

@[simp] theorem resetBlock_port (s : State) (r : Port) : (resetBlock s).port r = PortState.reset :=
  PerPort.get_all _ _

/-! ### Addresses -/

@[simp] theorem busAddr_lt (s : State) (n : Nat) : busAddr s n < 2 ^ s.cfg.addrW := Nat.mod_lt _ (Nat.two_pow_pos _)

theorem busAddr_of_lt (s : State) {n : Nat} (h : n < 2 ^ s.cfg.addrW) : busAddr s n = n := Nat.mod_eq_of_lt h

theorem busAddr_congr {s t : State} (h : t.cfg = s.cfg) (n : Nat) : busAddr t n = busAddr s n := by
  simp [busAddr, h]

theorem regAddr_congr {s t : State} (hc : t.cfg = s.cfg) (hb : t.base = s.base) (p : Port) (x : Reg) :
    regAddr t p x = regAddr s p x := by
  simp [regAddr, busAddr, hc, hb]

/-! ### Device answers -/

@[simp] theorem answer_cons (s : State) (v : Word) (vs : List Word) :
    answer { s with answers := v :: vs } = v := rfl

theorem answer_of_answers {s : State} {v : Word} {vs : List Word} (h : s.answers = v :: vs) : answer s = v := by
  simp [answer, h]

/-! ### `State.setPort` -/

@[simp] theorem setPort_cfg (s : State) (p : Port) (q : PortState) : (s.setPort p q).cfg = s.cfg := rfl
@[simp] theorem setPort_nports (s : State) (p : Port) (q : PortState) : (s.setPort p q).nports = s.nports := rfl
@[simp] theorem setPort_base (s : State) (p : Port) (q : PortState) : (s.setPort p q).base = s.base := rfl
@[simp] theorem setPort_mode (s : State) (p : Port) (q : PortState) : (s.setPort p q).mode = s.mode := rfl
@[simp] theorem setPort_refused (s : State) (p : Port) (q : PortState) : (s.setPort p q).refused = s.refused := rfl
@[simp] theorem setPort_active (s : State) (p : Port) (q : PortState) : (s.setPort p q).active = s.active := rfl
@[simp] theorem setPort_rspStatus (s : State) (p : Port) (q : PortState) : (s.setPort p q).rspStatus = s.rspStatus := rfl
@[simp] theorem setPort_rspData (s : State) (p : Port) (q : PortState) : (s.setPort p q).rspData = s.rspData := rfl
@[simp] theorem setPort_ports (s : State) (p : Port) (q : PortState) : (s.setPort p q).ports = s.ports.set p q := rfl
@[simp] theorem setPort_mem (s : State) (p : Port) (q : PortState) : (s.setPort p q).mem = s.mem := rfl
@[simp] theorem setPort_trace (s : State) (p : Port) (q : PortState) : (s.setPort p q).trace = s.trace := rfl
@[simp] theorem setPort_client (s : State) (p : Port) (q : PortState) : (s.setPort p q).client = s.client := rfl
@[simp] theorem setPort_answers (s : State) (p : Port) (q : PortState) : (s.setPort p q).answers = s.answers := rfl
@[simp] theorem setPort_draws (s : State) (p : Port) (q : PortState) : (s.setPort p q).draws = s.draws := rfl
@[simp] theorem setPort_resetPin (s : State) (p : Port) (q : PortState) : (s.setPort p q).resetPin = s.resetPin := rfl

/-! ### `record` -/

@[simp] theorem record_cfg (s : State) (e : Event) : (record e s).cfg = s.cfg := rfl
@[simp] theorem record_nports (s : State) (e : Event) : (record e s).nports = s.nports := rfl
@[simp] theorem record_base (s : State) (e : Event) : (record e s).base = s.base := rfl
@[simp] theorem record_mode (s : State) (e : Event) : (record e s).mode = s.mode := rfl
@[simp] theorem record_refused (s : State) (e : Event) : (record e s).refused = s.refused := rfl
@[simp] theorem record_active (s : State) (e : Event) : (record e s).active = s.active := rfl
@[simp] theorem record_rspStatus (s : State) (e : Event) : (record e s).rspStatus = s.rspStatus := rfl
@[simp] theorem record_rspData (s : State) (e : Event) : (record e s).rspData = s.rspData := rfl
@[simp] theorem record_ports (s : State) (e : Event) : (record e s).ports = s.ports := rfl
@[simp] theorem record_mem (s : State) (e : Event) : (record e s).mem = s.mem := rfl
@[simp] theorem record_trace (s : State) (e : Event) : (record e s).trace = s.trace ++ [e] := rfl
@[simp] theorem record_client (s : State) (e : Event) : (record e s).client = s.client := rfl
@[simp] theorem record_answers (s : State) (e : Event) : (record e s).answers = s.answers := rfl
@[simp] theorem record_draws (s : State) (e : Event) : (record e s).draws = s.draws := rfl
@[simp] theorem record_resetPin (s : State) (e : Event) : (record e s).resetPin = s.resetPin := rfl
@[simp] theorem record_port (s : State) (e : Event) (r : Port) : (record e s).port r = s.port r := rfl

/-! ### `busRead` -/

@[simp] theorem busRead_cfg (s : State) (a : Nat) : (busRead a s).cfg = s.cfg := rfl
@[simp] theorem busRead_nports (s : State) (a : Nat) : (busRead a s).nports = s.nports := rfl
@[simp] theorem busRead_base (s : State) (a : Nat) : (busRead a s).base = s.base := rfl
@[simp] theorem busRead_mode (s : State) (a : Nat) : (busRead a s).mode = s.mode := rfl
@[simp] theorem busRead_refused (s : State) (a : Nat) : (busRead a s).refused = s.refused := rfl
@[simp] theorem busRead_active (s : State) (a : Nat) : (busRead a s).active = s.active := rfl
@[simp] theorem busRead_rspStatus (s : State) (a : Nat) : (busRead a s).rspStatus = s.rspStatus := rfl
@[simp] theorem busRead_rspData (s : State) (a : Nat) : (busRead a s).rspData = s.rspData := rfl
@[simp] theorem busRead_ports (s : State) (a : Nat) : (busRead a s).ports = s.ports := rfl
@[simp] theorem busRead_mem (s : State) (a : Nat) : (busRead a s).mem = s.mem := rfl
@[simp] theorem busRead_trace (s : State) (a : Nat) : (busRead a s).trace = s.trace ++ [.rd a (answer s)] := rfl
@[simp] theorem busRead_client (s : State) (a : Nat) : (busRead a s).client = s.client := rfl
@[simp] theorem busRead_answers (s : State) (a : Nat) : (busRead a s).answers = s.answers.tail := rfl
@[simp] theorem busRead_draws (s : State) (a : Nat) : (busRead a s).draws = s.draws + 1 := rfl
@[simp] theorem busRead_resetPin (s : State) (a : Nat) : (busRead a s).resetPin = s.resetPin := rfl
@[simp] theorem busRead_port (s : State) (a : Nat) (r : Port) : (busRead a s).port r = s.port r := rfl

/-! ### `busWrite` -/

@[simp] theorem busWrite_cfg (s : State) (a : Nat) (v : Word) : (busWrite a v s).cfg = s.cfg := rfl
@[simp] theorem busWrite_nports (s : State) (a : Nat) (v : Word) : (busWrite a v s).nports = s.nports := rfl
@[simp] theorem busWrite_base (s : State) (a : Nat) (v : Word) : (busWrite a v s).base = s.base := rfl
@[simp] theorem busWrite_mode (s : State) (a : Nat) (v : Word) : (busWrite a v s).mode = s.mode := rfl
@[simp] theorem busWrite_refused (s : State) (a : Nat) (v : Word) : (busWrite a v s).refused = s.refused := rfl
@[simp] theorem busWrite_active (s : State) (a : Nat) (v : Word) : (busWrite a v s).active = s.active := rfl
@[simp] theorem busWrite_rspStatus (s : State) (a : Nat) (v : Word) : (busWrite a v s).rspStatus = s.rspStatus := rfl
@[simp] theorem busWrite_rspData (s : State) (a : Nat) (v : Word) : (busWrite a v s).rspData = s.rspData := rfl
@[simp] theorem busWrite_ports (s : State) (a : Nat) (v : Word) : (busWrite a v s).ports = s.ports := rfl
@[simp] theorem busWrite_mem (s : State) (a : Nat) (v : Word) : (busWrite a v s).mem = s.mem := rfl
@[simp] theorem busWrite_trace (s : State) (a : Nat) (v : Word) : (busWrite a v s).trace = s.trace ++ [.wr a v] := rfl
@[simp] theorem busWrite_client (s : State) (a : Nat) (v : Word) : (busWrite a v s).client = s.client := rfl
@[simp] theorem busWrite_answers (s : State) (a : Nat) (v : Word) : (busWrite a v s).answers = s.answers := rfl
@[simp] theorem busWrite_draws (s : State) (a : Nat) (v : Word) : (busWrite a v s).draws = s.draws := rfl
@[simp] theorem busWrite_resetPin (s : State) (a : Nat) (v : Word) : (busWrite a v s).resetPin = s.resetPin := rfl
@[simp] theorem busWrite_port (s : State) (a : Nat) (v : Word) (r : Port) : (busWrite a v s).port r = s.port r := rfl

/-! ### `regRead` -/

@[simp] theorem regRead_cfg (s : State) (p : Port) (x : Reg) : (regRead p x s).cfg = s.cfg := rfl
@[simp] theorem regRead_nports (s : State) (p : Port) (x : Reg) : (regRead p x s).nports = s.nports := rfl
@[simp] theorem regRead_base (s : State) (p : Port) (x : Reg) : (regRead p x s).base = s.base := rfl
@[simp] theorem regRead_mode (s : State) (p : Port) (x : Reg) : (regRead p x s).mode = s.mode := rfl
@[simp] theorem regRead_refused (s : State) (p : Port) (x : Reg) : (regRead p x s).refused = s.refused := rfl
@[simp] theorem regRead_active (s : State) (p : Port) (x : Reg) : (regRead p x s).active = s.active := rfl
@[simp] theorem regRead_rspStatus (s : State) (p : Port) (x : Reg) : (regRead p x s).rspStatus = s.rspStatus := rfl
@[simp] theorem regRead_rspData (s : State) (p : Port) (x : Reg) : (regRead p x s).rspData = s.rspData := rfl
@[simp] theorem regRead_ports (s : State) (p : Port) (x : Reg) : (regRead p x s).ports = s.ports := rfl
@[simp] theorem regRead_mem (s : State) (p : Port) (x : Reg) : (regRead p x s).mem = s.mem := rfl
@[simp] theorem regRead_trace (s : State) (p : Port) (x : Reg) : (regRead p x s).trace = s.trace ++ [.rd (regAddr s p x) (answer s)] := rfl
@[simp] theorem regRead_client (s : State) (p : Port) (x : Reg) : (regRead p x s).client = s.client := rfl
@[simp] theorem regRead_answers (s : State) (p : Port) (x : Reg) : (regRead p x s).answers = s.answers.tail := rfl
@[simp] theorem regRead_draws (s : State) (p : Port) (x : Reg) : (regRead p x s).draws = s.draws + 1 := rfl
@[simp] theorem regRead_resetPin (s : State) (p : Port) (x : Reg) : (regRead p x s).resetPin = s.resetPin := rfl
@[simp] theorem regRead_port (s : State) (p : Port) (x : Reg) (r : Port) : (regRead p x s).port r = s.port r := rfl

/-! ### `regWrite` -/

@[simp] theorem regWrite_cfg (s : State) (p : Port) (x : Reg) (v : Word) : (regWrite p x v s).cfg = s.cfg := rfl
@[simp] theorem regWrite_nports (s : State) (p : Port) (x : Reg) (v : Word) : (regWrite p x v s).nports = s.nports := rfl
@[simp] theorem regWrite_base (s : State) (p : Port) (x : Reg) (v : Word) : (regWrite p x v s).base = s.base := rfl
@[simp] theorem regWrite_mode (s : State) (p : Port) (x : Reg) (v : Word) : (regWrite p x v s).mode = s.mode := rfl
@[simp] theorem regWrite_refused (s : State) (p : Port) (x : Reg) (v : Word) : (regWrite p x v s).refused = s.refused := rfl
@[simp] theorem regWrite_active (s : State) (p : Port) (x : Reg) (v : Word) : (regWrite p x v s).active = s.active := rfl
@[simp] theorem regWrite_rspStatus (s : State) (p : Port) (x : Reg) (v : Word) : (regWrite p x v s).rspStatus = s.rspStatus := rfl
@[simp] theorem regWrite_rspData (s : State) (p : Port) (x : Reg) (v : Word) : (regWrite p x v s).rspData = s.rspData := rfl
@[simp] theorem regWrite_ports (s : State) (p : Port) (x : Reg) (v : Word) : (regWrite p x v s).ports = s.ports := rfl
@[simp] theorem regWrite_mem (s : State) (p : Port) (x : Reg) (v : Word) : (regWrite p x v s).mem = s.mem := rfl
@[simp] theorem regWrite_trace (s : State) (p : Port) (x : Reg) (v : Word) : (regWrite p x v s).trace = s.trace ++ [.wr (regAddr s p x) v] := rfl
@[simp] theorem regWrite_client (s : State) (p : Port) (x : Reg) (v : Word) : (regWrite p x v s).client = s.client := rfl
@[simp] theorem regWrite_answers (s : State) (p : Port) (x : Reg) (v : Word) : (regWrite p x v s).answers = s.answers := rfl
@[simp] theorem regWrite_draws (s : State) (p : Port) (x : Reg) (v : Word) : (regWrite p x v s).draws = s.draws := rfl
@[simp] theorem regWrite_resetPin (s : State) (p : Port) (x : Reg) (v : Word) : (regWrite p x v s).resetPin = s.resetPin := rfl
@[simp] theorem regWrite_port (s : State) (p : Port) (x : Reg) (v : Word) (r : Port) : (regWrite p x v s).port r = s.port r := rfl

/-! ### `memRead` -/

@[simp] theorem memRead_cfg (s : State) (a : Nat) : (memRead a s).cfg = s.cfg := rfl
@[simp] theorem memRead_nports (s : State) (a : Nat) : (memRead a s).nports = s.nports := rfl
@[simp] theorem memRead_base (s : State) (a : Nat) : (memRead a s).base = s.base := rfl
@[simp] theorem memRead_mode (s : State) (a : Nat) : (memRead a s).mode = s.mode := rfl
@[simp] theorem memRead_refused (s : State) (a : Nat) : (memRead a s).refused = s.refused := rfl
@[simp] theorem memRead_active (s : State) (a : Nat) : (memRead a s).active = s.active := rfl
@[simp] theorem memRead_rspStatus (s : State) (a : Nat) : (memRead a s).rspStatus = s.rspStatus := rfl
@[simp] theorem memRead_rspData (s : State) (a : Nat) : (memRead a s).rspData = s.rspData := rfl
@[simp] theorem memRead_ports (s : State) (a : Nat) : (memRead a s).ports = s.ports := rfl
@[simp] theorem memRead_mem (s : State) (a : Nat) : (memRead a s).mem = s.mem := rfl
@[simp] theorem memRead_trace (s : State) (a : Nat) : (memRead a s).trace = s.trace ++ [.mrd a (s.mem.read a)] := rfl
@[simp] theorem memRead_client (s : State) (a : Nat) : (memRead a s).client = s.client := rfl
@[simp] theorem memRead_answers (s : State) (a : Nat) : (memRead a s).answers = s.answers := rfl
@[simp] theorem memRead_draws (s : State) (a : Nat) : (memRead a s).draws = s.draws := rfl
@[simp] theorem memRead_resetPin (s : State) (a : Nat) : (memRead a s).resetPin = s.resetPin := rfl
@[simp] theorem memRead_port (s : State) (a : Nat) (r : Port) : (memRead a s).port r = s.port r := rfl

/-! ### `memWrite` -/

@[simp] theorem memWrite_cfg (s : State) (a : Nat) (v : Byte) : (memWrite a v s).cfg = s.cfg := rfl
@[simp] theorem memWrite_nports (s : State) (a : Nat) (v : Byte) : (memWrite a v s).nports = s.nports := rfl
@[simp] theorem memWrite_base (s : State) (a : Nat) (v : Byte) : (memWrite a v s).base = s.base := rfl
@[simp] theorem memWrite_mode (s : State) (a : Nat) (v : Byte) : (memWrite a v s).mode = s.mode := rfl
@[simp] theorem memWrite_refused (s : State) (a : Nat) (v : Byte) : (memWrite a v s).refused = s.refused := rfl
@[simp] theorem memWrite_active (s : State) (a : Nat) (v : Byte) : (memWrite a v s).active = s.active := rfl
@[simp] theorem memWrite_rspStatus (s : State) (a : Nat) (v : Byte) : (memWrite a v s).rspStatus = s.rspStatus := rfl
@[simp] theorem memWrite_rspData (s : State) (a : Nat) (v : Byte) : (memWrite a v s).rspData = s.rspData := rfl
@[simp] theorem memWrite_ports (s : State) (a : Nat) (v : Byte) : (memWrite a v s).ports = s.ports := rfl
@[simp] theorem memWrite_mem (s : State) (a : Nat) (v : Byte) : (memWrite a v s).mem = s.mem.write a v := rfl
@[simp] theorem memWrite_trace (s : State) (a : Nat) (v : Byte) : (memWrite a v s).trace = s.trace ++ [.mwr a v] := rfl
@[simp] theorem memWrite_client (s : State) (a : Nat) (v : Byte) : (memWrite a v s).client = s.client := rfl
@[simp] theorem memWrite_answers (s : State) (a : Nat) (v : Byte) : (memWrite a v s).answers = s.answers := rfl
@[simp] theorem memWrite_draws (s : State) (a : Nat) (v : Byte) : (memWrite a v s).draws = s.draws := rfl
@[simp] theorem memWrite_resetPin (s : State) (a : Nat) (v : Byte) : (memWrite a v s).resetPin = s.resetPin := rfl
@[simp] theorem memWrite_port (s : State) (a : Nat) (v : Byte) (r : Port) : (memWrite a v s).port r = s.port r := rfl

/-! ### `critEnter` -/

@[simp] theorem critEnter_cfg (s : State) (p : Port) : (critEnter p s).cfg = s.cfg := rfl
@[simp] theorem critEnter_nports (s : State) (p : Port) : (critEnter p s).nports = s.nports := rfl
@[simp] theorem critEnter_base (s : State) (p : Port) : (critEnter p s).base = s.base := rfl
@[simp] theorem critEnter_mode (s : State) (p : Port) : (critEnter p s).mode = s.mode := rfl
@[simp] theorem critEnter_refused (s : State) (p : Port) : (critEnter p s).refused = s.refused := rfl
@[simp] theorem critEnter_active (s : State) (p : Port) : (critEnter p s).active = s.active := rfl
@[simp] theorem critEnter_rspStatus (s : State) (p : Port) : (critEnter p s).rspStatus = s.rspStatus := rfl
@[simp] theorem critEnter_rspData (s : State) (p : Port) : (critEnter p s).rspData = s.rspData := rfl
@[simp] theorem critEnter_ports (s : State) (p : Port) : (critEnter p s).ports = s.ports := rfl
@[simp] theorem critEnter_mem (s : State) (p : Port) : (critEnter p s).mem = s.mem := rfl
@[simp] theorem critEnter_trace (s : State) (p : Port) : (critEnter p s).trace = s.trace ++ [.critEnter p] := rfl
@[simp] theorem critEnter_client (s : State) (p : Port) : (critEnter p s).client = s.client := rfl
@[simp] theorem critEnter_answers (s : State) (p : Port) : (critEnter p s).answers = s.answers := rfl
@[simp] theorem critEnter_draws (s : State) (p : Port) : (critEnter p s).draws = s.draws := rfl
@[simp] theorem critEnter_resetPin (s : State) (p : Port) : (critEnter p s).resetPin = s.resetPin := rfl
@[simp] theorem critEnter_port (s : State) (p : Port) (r : Port) : (critEnter p s).port r = s.port r := rfl

/-! ### `critExit` -/

@[simp] theorem critExit_cfg (s : State) (p : Port) : (critExit p s).cfg = s.cfg := rfl
@[simp] theorem critExit_nports (s : State) (p : Port) : (critExit p s).nports = s.nports := rfl
@[simp] theorem critExit_base (s : State) (p : Port) : (critExit p s).base = s.base := rfl
@[simp] theorem critExit_mode (s : State) (p : Port) : (critExit p s).mode = s.mode := rfl
@[simp] theorem critExit_refused (s : State) (p : Port) : (critExit p s).refused = s.refused := rfl
@[simp] theorem critExit_active (s : State) (p : Port) : (critExit p s).active = s.active := rfl
@[simp] theorem critExit_rspStatus (s : State) (p : Port) : (critExit p s).rspStatus = s.rspStatus := rfl
@[simp] theorem critExit_rspData (s : State) (p : Port) : (critExit p s).rspData = s.rspData := rfl
@[simp] theorem critExit_ports (s : State) (p : Port) : (critExit p s).ports = s.ports := rfl
@[simp] theorem critExit_mem (s : State) (p : Port) : (critExit p s).mem = s.mem := rfl
@[simp] theorem critExit_trace (s : State) (p : Port) : (critExit p s).trace = s.trace ++ [.critExit p] := rfl
@[simp] theorem critExit_client (s : State) (p : Port) : (critExit p s).client = s.client := rfl
@[simp] theorem critExit_answers (s : State) (p : Port) : (critExit p s).answers = s.answers := rfl
@[simp] theorem critExit_draws (s : State) (p : Port) : (critExit p s).draws = s.draws := rfl
@[simp] theorem critExit_resetPin (s : State) (p : Port) : (critExit p s).resetPin = s.resetPin := rfl
@[simp] theorem critExit_port (s : State) (p : Port) (r : Port) : (critExit p s).port r = s.port r := rfl

/-! ### `activate` -/

@[simp] theorem activate_cfg (s : State) (op : Op) (port : PortField) : (activate op port s).cfg = s.cfg := rfl
@[simp] theorem activate_nports (s : State) (op : Op) (port : PortField) : (activate op port s).nports = s.nports := rfl
@[simp] theorem activate_base (s : State) (op : Op) (port : PortField) : (activate op port s).base = s.base := rfl
@[simp] theorem activate_mode (s : State) (op : Op) (port : PortField) : (activate op port s).mode = s.mode := rfl
@[simp] theorem activate_refused (s : State) (op : Op) (port : PortField) : (activate op port s).refused = s.refused := rfl
@[simp] theorem activate_active (s : State) (op : Op) (port : PortField) : (activate op port s).active = some (op, port) := rfl
@[simp] theorem activate_rspStatus (s : State) (op : Op) (port : PortField) : (activate op port s).rspStatus = s.rspStatus := rfl
@[simp] theorem activate_rspData (s : State) (op : Op) (port : PortField) : (activate op port s).rspData = s.rspData := rfl
@[simp] theorem activate_ports (s : State) (op : Op) (port : PortField) : (activate op port s).ports = s.ports := rfl
@[simp] theorem activate_mem (s : State) (op : Op) (port : PortField) : (activate op port s).mem = s.mem := rfl
@[simp] theorem activate_trace (s : State) (op : Op) (port : PortField) : (activate op port s).trace = s.trace := rfl
@[simp] theorem activate_client (s : State) (op : Op) (port : PortField) : (activate op port s).client = s.client := rfl
@[simp] theorem activate_answers (s : State) (op : Op) (port : PortField) : (activate op port s).answers = s.answers := rfl
@[simp] theorem activate_draws (s : State) (op : Op) (port : PortField) : (activate op port s).draws = s.draws := rfl
@[simp] theorem activate_resetPin (s : State) (op : Op) (port : PortField) : (activate op port s).resetPin = s.resetPin := rfl
@[simp] theorem activate_port (s : State) (op : Op) (port : PortField) (r : Port) : (activate op port s).port r = s.port r := rfl

/-! ### `respond` -/

@[simp] theorem respond_cfg (s : State) (st : Status) (d : Nat) : (respond st d s).cfg = s.cfg := rfl
@[simp] theorem respond_nports (s : State) (st : Status) (d : Nat) : (respond st d s).nports = s.nports := rfl
@[simp] theorem respond_base (s : State) (st : Status) (d : Nat) : (respond st d s).base = s.base := rfl
@[simp] theorem respond_mode (s : State) (st : Status) (d : Nat) : (respond st d s).mode = s.mode := rfl
@[simp] theorem respond_refused (s : State) (st : Status) (d : Nat) : (respond st d s).refused = s.refused := rfl
@[simp] theorem respond_active (s : State) (st : Status) (d : Nat) : (respond st d s).active = none := rfl
@[simp] theorem respond_rspStatus (s : State) (st : Status) (d : Nat) : (respond st d s).rspStatus = statusCode st := rfl
@[simp] theorem respond_rspData (s : State) (st : Status) (d : Nat) : (respond st d s).rspData = d := rfl
@[simp] theorem respond_ports (s : State) (st : Status) (d : Nat) : (respond st d s).ports = s.ports := rfl
@[simp] theorem respond_mem (s : State) (st : Status) (d : Nat) : (respond st d s).mem = s.mem := rfl
@[simp] theorem respond_trace (s : State) (st : Status) (d : Nat) : (respond st d s).trace = s.trace ++ [.rsp (statusCode st) d] := rfl
@[simp] theorem respond_client (s : State) (st : Status) (d : Nat) : (respond st d s).client = s.client := rfl
@[simp] theorem respond_answers (s : State) (st : Status) (d : Nat) : (respond st d s).answers = s.answers := rfl
@[simp] theorem respond_draws (s : State) (st : Status) (d : Nat) : (respond st d s).draws = s.draws := rfl
@[simp] theorem respond_resetPin (s : State) (st : Status) (d : Nat) : (respond st d s).resetPin = s.resetPin := rfl
@[simp] theorem respond_port (s : State) (st : Status) (d : Nat) (r : Port) : (respond st d s).port r = s.port r := rfl

/-! ### `raiseFatal` -/

@[simp] theorem raiseFatal_cfg (s : State) : (raiseFatal s).cfg = s.cfg := rfl
@[simp] theorem raiseFatal_nports (s : State) : (raiseFatal s).nports = s.nports := rfl
@[simp] theorem raiseFatal_base (s : State) : (raiseFatal s).base = s.base := rfl
@[simp] theorem raiseFatal_mode (s : State) : (raiseFatal s).mode = .fatal := rfl
@[simp] theorem raiseFatal_refused (s : State) : (raiseFatal s).refused = s.refused := rfl
@[simp] theorem raiseFatal_active (s : State) : (raiseFatal s).active = s.active := rfl
@[simp] theorem raiseFatal_rspStatus (s : State) : (raiseFatal s).rspStatus = s.rspStatus := rfl
@[simp] theorem raiseFatal_rspData (s : State) : (raiseFatal s).rspData = s.rspData := rfl
@[simp] theorem raiseFatal_ports (s : State) : (raiseFatal s).ports = s.ports := rfl
@[simp] theorem raiseFatal_mem (s : State) : (raiseFatal s).mem = s.mem := rfl
@[simp] theorem raiseFatal_trace (s : State) : (raiseFatal s).trace = s.trace := rfl
@[simp] theorem raiseFatal_client (s : State) : (raiseFatal s).client = s.client := rfl
@[simp] theorem raiseFatal_answers (s : State) : (raiseFatal s).answers = s.answers := rfl
@[simp] theorem raiseFatal_draws (s : State) : (raiseFatal s).draws = s.draws := rfl
@[simp] theorem raiseFatal_resetPin (s : State) : (raiseFatal s).resetPin = s.resetPin := rfl
@[simp] theorem raiseFatal_port (s : State) (r : Port) : (raiseFatal s).port r = s.port r := rfl

/-! ### `refuse` -/

@[simp] theorem refuse_cfg (s : State) (why : Reason) : (refuse why s).cfg = s.cfg := rfl
@[simp] theorem refuse_nports (s : State) (why : Reason) : (refuse why s).nports = s.nports := rfl
@[simp] theorem refuse_base (s : State) (why : Reason) : (refuse why s).base = s.base := rfl
@[simp] theorem refuse_mode (s : State) (why : Reason) : (refuse why s).mode = s.mode := rfl
@[simp] theorem refuse_refused (s : State) (why : Reason) : (refuse why s).refused = some why := rfl
@[simp] theorem refuse_active (s : State) (why : Reason) : (refuse why s).active = s.active := rfl
@[simp] theorem refuse_rspStatus (s : State) (why : Reason) : (refuse why s).rspStatus = s.rspStatus := rfl
@[simp] theorem refuse_rspData (s : State) (why : Reason) : (refuse why s).rspData = s.rspData := rfl
@[simp] theorem refuse_ports (s : State) (why : Reason) : (refuse why s).ports = s.ports := rfl
@[simp] theorem refuse_mem (s : State) (why : Reason) : (refuse why s).mem = s.mem := rfl
@[simp] theorem refuse_trace (s : State) (why : Reason) : (refuse why s).trace = s.trace := rfl
@[simp] theorem refuse_client (s : State) (why : Reason) : (refuse why s).client = s.client := rfl
@[simp] theorem refuse_answers (s : State) (why : Reason) : (refuse why s).answers = s.answers := rfl
@[simp] theorem refuse_draws (s : State) (why : Reason) : (refuse why s).draws = s.draws := rfl
@[simp] theorem refuse_resetPin (s : State) (why : Reason) : (refuse why s).resetPin = s.resetPin := rfl
@[simp] theorem refuse_port (s : State) (why : Reason) (r : Port) : (refuse why s).port r = s.port r := rfl

/-! ### `clientStore` -/

@[simp] theorem clientStore_cfg (s : State) (a : Nat) (v : Byte) : (clientStore a v s).cfg = s.cfg := rfl
@[simp] theorem clientStore_nports (s : State) (a : Nat) (v : Byte) : (clientStore a v s).nports = s.nports := rfl
@[simp] theorem clientStore_base (s : State) (a : Nat) (v : Byte) : (clientStore a v s).base = s.base := rfl
@[simp] theorem clientStore_mode (s : State) (a : Nat) (v : Byte) : (clientStore a v s).mode = s.mode := rfl
@[simp] theorem clientStore_refused (s : State) (a : Nat) (v : Byte) : (clientStore a v s).refused = s.refused := rfl
@[simp] theorem clientStore_active (s : State) (a : Nat) (v : Byte) : (clientStore a v s).active = s.active := rfl
@[simp] theorem clientStore_rspStatus (s : State) (a : Nat) (v : Byte) : (clientStore a v s).rspStatus = s.rspStatus := rfl
@[simp] theorem clientStore_rspData (s : State) (a : Nat) (v : Byte) : (clientStore a v s).rspData = s.rspData := rfl
@[simp] theorem clientStore_ports (s : State) (a : Nat) (v : Byte) : (clientStore a v s).ports = s.ports := rfl
@[simp] theorem clientStore_mem (s : State) (a : Nat) (v : Byte) : (clientStore a v s).mem = s.mem.write (busAddr s a) v := rfl
@[simp] theorem clientStore_trace (s : State) (a : Nat) (v : Byte) : (clientStore a v s).trace = s.trace := rfl
@[simp] theorem clientStore_client (s : State) (a : Nat) (v : Byte) : (clientStore a v s).client = s.client := rfl
@[simp] theorem clientStore_answers (s : State) (a : Nat) (v : Byte) : (clientStore a v s).answers = s.answers := rfl
@[simp] theorem clientStore_draws (s : State) (a : Nat) (v : Byte) : (clientStore a v s).draws = s.draws := rfl
@[simp] theorem clientStore_resetPin (s : State) (a : Nat) (v : Byte) : (clientStore a v s).resetPin = s.resetPin := rfl
@[simp] theorem clientStore_port (s : State) (a : Nat) (v : Byte) (r : Port) : (clientStore a v s).port r = s.port r := rfl

/-! ### `resetBlock` -/

@[simp] theorem resetBlock_cfg (s : State) : (resetBlock s).cfg = s.cfg := rfl
@[simp] theorem resetBlock_nports (s : State) : (resetBlock s).nports = 0 := rfl
@[simp] theorem resetBlock_base (s : State) : (resetBlock s).base = PerPort.all 0 := rfl
@[simp] theorem resetBlock_mode (s : State) : (resetBlock s).mode = .run := rfl
@[simp] theorem resetBlock_refused (s : State) : (resetBlock s).refused = s.refused := rfl
@[simp] theorem resetBlock_active (s : State) : (resetBlock s).active = none := rfl
@[simp] theorem resetBlock_rspStatus (s : State) : (resetBlock s).rspStatus = 0 := rfl
@[simp] theorem resetBlock_rspData (s : State) : (resetBlock s).rspData = 0 := rfl
@[simp] theorem resetBlock_ports (s : State) : (resetBlock s).ports = PerPort.all PortState.reset := rfl
@[simp] theorem resetBlock_mem (s : State) : (resetBlock s).mem = s.mem := rfl
@[simp] theorem resetBlock_trace (s : State) : (resetBlock s).trace = s.trace := rfl
@[simp] theorem resetBlock_client (s : State) : (resetBlock s).client = s.client := rfl
@[simp] theorem resetBlock_answers (s : State) : (resetBlock s).answers = s.answers := rfl
@[simp] theorem resetBlock_draws (s : State) : (resetBlock s).draws = s.draws := rfl
@[simp] theorem resetBlock_resetPin (s : State) : (resetBlock s).resetPin = false := rfl

/-! ### `initResets` -/

@[simp] theorem initResets_cfg (s : State) (b : Nat) : (initResets b s).cfg = s.cfg := rfl
@[simp] theorem initResets_nports (s : State) (b : Nat) : (initResets b s).nports = s.nports := rfl
@[simp] theorem initResets_base (s : State) (b : Nat) : (initResets b s).base = s.base := rfl
@[simp] theorem initResets_mode (s : State) (b : Nat) : (initResets b s).mode = s.mode := rfl
@[simp] theorem initResets_refused (s : State) (b : Nat) : (initResets b s).refused = s.refused := rfl
@[simp] theorem initResets_active (s : State) (b : Nat) : (initResets b s).active = s.active := rfl
@[simp] theorem initResets_rspStatus (s : State) (b : Nat) : (initResets b s).rspStatus = s.rspStatus := rfl
@[simp] theorem initResets_rspData (s : State) (b : Nat) : (initResets b s).rspData = s.rspData := rfl
@[simp] theorem initResets_ports (s : State) (b : Nat) : (initResets b s).ports = s.ports := rfl
@[simp] theorem initResets_mem (s : State) (b : Nat) : (initResets b s).mem = s.mem := rfl
@[simp] theorem initResets_trace (s : State) (b : Nat) : (initResets b s).trace = s.trace ++ [.wr (busAddr s (b + s.cfg.offCR)) s.cfg.cmdResetRx] ++
      [.wr (busAddr s (b + s.cfg.offCR)) s.cfg.cmdResetTx] := rfl
@[simp] theorem initResets_client (s : State) (b : Nat) : (initResets b s).client = s.client := rfl
@[simp] theorem initResets_answers (s : State) (b : Nat) : (initResets b s).answers = s.answers := rfl
@[simp] theorem initResets_draws (s : State) (b : Nat) : (initResets b s).draws = s.draws := rfl
@[simp] theorem initResets_resetPin (s : State) (b : Nat) : (initResets b s).resetPin = s.resetPin := rfl
@[simp] theorem initResets_port (s : State) (b : Nat) (r : Port) : (initResets b s).port r = s.port r := rfl

/-! ### `registerPort` -/

@[simp] theorem registerPort_cfg (s : State) (b : Nat) (h : s.nports.val < nPorts) : (registerPort b s h).cfg = s.cfg := rfl
@[simp] theorem registerPort_nports (s : State) (b : Nat) (h : s.nports.val < nPorts) : (registerPort b s h).nports = ⟨s.nports.val + 1, Nat.succ_lt_succ h⟩ := rfl
@[simp] theorem registerPort_base (s : State) (b : Nat) (h : s.nports.val < nPorts) : (registerPort b s h).base = s.base.set ⟨s.nports.val, h⟩ b := rfl
@[simp] theorem registerPort_mode (s : State) (b : Nat) (h : s.nports.val < nPorts) : (registerPort b s h).mode = s.mode := rfl
@[simp] theorem registerPort_refused (s : State) (b : Nat) (h : s.nports.val < nPorts) : (registerPort b s h).refused = s.refused := rfl
@[simp] theorem registerPort_active (s : State) (b : Nat) (h : s.nports.val < nPorts) : (registerPort b s h).active = s.active := rfl
@[simp] theorem registerPort_rspStatus (s : State) (b : Nat) (h : s.nports.val < nPorts) : (registerPort b s h).rspStatus = s.rspStatus := rfl
@[simp] theorem registerPort_rspData (s : State) (b : Nat) (h : s.nports.val < nPorts) : (registerPort b s h).rspData = s.rspData := rfl
@[simp] theorem registerPort_ports (s : State) (b : Nat) (h : s.nports.val < nPorts) : (registerPort b s h).ports = s.ports := rfl
@[simp] theorem registerPort_mem (s : State) (b : Nat) (h : s.nports.val < nPorts) : (registerPort b s h).mem = s.mem := rfl
@[simp] theorem registerPort_trace (s : State) (b : Nat) (h : s.nports.val < nPorts) : (registerPort b s h).trace = s.trace := rfl
@[simp] theorem registerPort_client (s : State) (b : Nat) (h : s.nports.val < nPorts) : (registerPort b s h).client = s.client := rfl
@[simp] theorem registerPort_answers (s : State) (b : Nat) (h : s.nports.val < nPorts) : (registerPort b s h).answers = s.answers := rfl
@[simp] theorem registerPort_draws (s : State) (b : Nat) (h : s.nports.val < nPorts) : (registerPort b s h).draws = s.draws := rfl
@[simp] theorem registerPort_resetPin (s : State) (b : Nat) (h : s.nports.val < nPorts) : (registerPort b s h).resetPin = s.resetPin := rfl
@[simp] theorem registerPort_port (s : State) (b : Nat) (h : s.nports.val < nPorts) (r : Port) : (registerPort b s h).port r = s.port r := rfl

/-! ### `srcRead` -/

@[simp] theorem srcRead_cfg (s : State) (p : Port) (k : Nat) : (srcRead p k s).cfg = s.cfg := by
  unfold srcRead; split <;> rfl
@[simp] theorem srcRead_nports (s : State) (p : Port) (k : Nat) : (srcRead p k s).nports = s.nports := by
  unfold srcRead; split <;> rfl
@[simp] theorem srcRead_base (s : State) (p : Port) (k : Nat) : (srcRead p k s).base = s.base := by
  unfold srcRead; split <;> rfl
@[simp] theorem srcRead_mode (s : State) (p : Port) (k : Nat) : (srcRead p k s).mode = s.mode := by
  unfold srcRead; split <;> rfl
@[simp] theorem srcRead_refused (s : State) (p : Port) (k : Nat) : (srcRead p k s).refused = s.refused := by
  unfold srcRead; split <;> rfl
@[simp] theorem srcRead_active (s : State) (p : Port) (k : Nat) : (srcRead p k s).active = s.active := by
  unfold srcRead; split <;> rfl
@[simp] theorem srcRead_rspStatus (s : State) (p : Port) (k : Nat) : (srcRead p k s).rspStatus = s.rspStatus := by
  unfold srcRead; split <;> rfl
@[simp] theorem srcRead_rspData (s : State) (p : Port) (k : Nat) : (srcRead p k s).rspData = s.rspData := by
  unfold srcRead; split <;> rfl
@[simp] theorem srcRead_ports (s : State) (p : Port) (k : Nat) : (srcRead p k s).ports = s.ports := by
  unfold srcRead; split <;> rfl
@[simp] theorem srcRead_mem (s : State) (p : Port) (k : Nat) : (srcRead p k s).mem = s.mem := by
  unfold srcRead; split <;> rfl
@[simp] theorem srcRead_client (s : State) (p : Port) (k : Nat) : (srcRead p k s).client = s.client := by
  unfold srcRead; split <;> rfl
@[simp] theorem srcRead_answers (s : State) (p : Port) (k : Nat) : (srcRead p k s).answers = s.answers := by
  unfold srcRead; split <;> rfl
@[simp] theorem srcRead_draws (s : State) (p : Port) (k : Nat) : (srcRead p k s).draws = s.draws := by
  unfold srcRead; split <;> rfl
@[simp] theorem srcRead_resetPin (s : State) (p : Port) (k : Nat) : (srcRead p k s).resetPin = s.resetPin := by
  unfold srcRead; split <;> rfl
@[simp] theorem srcRead_port (s : State) (p : Port) (k : Nat) (r : Port) : (srcRead p k s).port r = s.port r := by
  unfold srcRead; split <;> rfl

/-! ### `srcWrite` -/

@[simp] theorem srcWrite_cfg (s : State) (p : Port) (k : Nat) (v : Byte) : (srcWrite p k v s).cfg = s.cfg := by
  unfold srcWrite; split <;> rfl
@[simp] theorem srcWrite_nports (s : State) (p : Port) (k : Nat) (v : Byte) : (srcWrite p k v s).nports = s.nports := by
  unfold srcWrite; split <;> rfl
@[simp] theorem srcWrite_base (s : State) (p : Port) (k : Nat) (v : Byte) : (srcWrite p k v s).base = s.base := by
  unfold srcWrite; split <;> rfl
@[simp] theorem srcWrite_mode (s : State) (p : Port) (k : Nat) (v : Byte) : (srcWrite p k v s).mode = s.mode := by
  unfold srcWrite; split <;> rfl
@[simp] theorem srcWrite_refused (s : State) (p : Port) (k : Nat) (v : Byte) : (srcWrite p k v s).refused = s.refused := by
  unfold srcWrite; split <;> rfl
@[simp] theorem srcWrite_active (s : State) (p : Port) (k : Nat) (v : Byte) : (srcWrite p k v s).active = s.active := by
  unfold srcWrite; split <;> rfl
@[simp] theorem srcWrite_rspStatus (s : State) (p : Port) (k : Nat) (v : Byte) : (srcWrite p k v s).rspStatus = s.rspStatus := by
  unfold srcWrite; split <;> rfl
@[simp] theorem srcWrite_rspData (s : State) (p : Port) (k : Nat) (v : Byte) : (srcWrite p k v s).rspData = s.rspData := by
  unfold srcWrite; split <;> rfl
@[simp] theorem srcWrite_client (s : State) (p : Port) (k : Nat) (v : Byte) : (srcWrite p k v s).client = s.client := by
  unfold srcWrite; split <;> rfl
@[simp] theorem srcWrite_answers (s : State) (p : Port) (k : Nat) (v : Byte) : (srcWrite p k v s).answers = s.answers := by
  unfold srcWrite; split <;> rfl
@[simp] theorem srcWrite_draws (s : State) (p : Port) (k : Nat) (v : Byte) : (srcWrite p k v s).draws = s.draws := by
  unfold srcWrite; split <;> rfl
@[simp] theorem srcWrite_resetPin (s : State) (p : Port) (k : Nat) (v : Byte) : (srcWrite p k v s).resetPin = s.resetPin := by
  unfold srcWrite; split <;> rfl

end Sys2Proof.Machine
end

