-- ==== Sys2Proof/Laws/Packing.lean ====
section
/-! SUPPORT. What the passes over the source of a transmit do: one lemma per pass. -/

namespace Sys2Proof.Machine

/-! ## Source bytes -/

/-- The events of one `SrcRead(p, k)`. -/
def srcReadEvents (s : State) (p : Port) (k : Nat) : List Event :=
  match (s.port p).txsrc with
  | .mem => [.mrd (srcAddr s p k) (s.mem.read (srcAddr s p k))]
  | .stage => []

/-- The source of port `p` lies inside the address space, or is the one staging byte. -/
def SrcFits (s : State) (p : Port) : Prop :=
  match (s.port p).txsrc with
  | .mem => (s.port p).txbuf + (s.port p).txlen ≤ 2 ^ s.cfg.addrW
  | .stage => (s.port p).txlen = 1

theorem srcRead_eq (p : Port) (k : Nat) (s : State) :
    srcRead p k s = { s with trace := s.trace ++ srcReadEvents s p k } := by
  unfold srcRead srcReadEvents
  cases (s.port p).txsrc with
  | mem => rfl
  | stage => simp

theorem srcByte_congr {s t : State} {p : Port} (hc : t.cfg = s.cfg) (hm : t.mem = s.mem) (hp : t.port p = s.port p)
    (k : Nat) : srcByte t p k = srcByte s p k := by
  simp [srcByte, srcAddr, busAddr, hc, hm, hp]

@[simp] theorem srcByte_srcRead (p : Port) (j k : Nat) (s : State) : srcByte (srcRead p j s) p k = srcByte s p k :=
  srcByte_congr (by simp) (by simp) (by simp) k

theorem srcReadEvents_congr {s t : State} {p : Port} (hc : t.cfg = s.cfg) (hm : t.mem = s.mem)
    (hp : t.port p = s.port p) (k : Nat) : srcReadEvents t p k = srcReadEvents s p k := by
  simp [srcReadEvents, srcAddr, busAddr, hc, hm, hp]

/-! ## The count pass -/

/-- The count pass counts the `LF` bytes and records one read of each source byte in ascending order. -/
theorem countFrom_eq (p : Port) (n j : Nat) (s : State) :
    countFrom p n j s =
      ((srcBytes s p j n).count lf, { s with trace := s.trace ++ (List.range' j n).flatMap (srcReadEvents s p) }) := by
  induction n generalizing j s with
  | zero => simp [countFrom, srcBytes]
  | succ n ih =>
    have hb : srcBytes (srcRead p j s) p (j + 1) n = srcBytes s p (j + 1) n := by
      simp [srcBytes]
    have he : srcReadEvents (srcRead p j s) p = srcReadEvents s p :=
      funext fun k => srcReadEvents_congr (by simp) (by simp) (by simp) k
    simp only [countFrom, ih, hb, he]
    refine Prod.ext ?_ ?_
    · simp only [srcBytes, List.range'_succ, List.map_cons, List.count_cons, beq_iff_eq]
      omega
    · simp [srcRead_eq, List.range'_succ, List.append_assoc]

theorem countPass_eq (p : Port) (n : Nat) (s : State) :
    countPass p n s =
      (n + (srcBytes s p 0 n).count lf,
        { s with trace := s.trace ++ (List.range' 0 n).flatMap (srcReadEvents s p) }) := by
  simp [countPass, countFrom_eq]

/-! ## One write to the source -/

/-- What a pass over the source of port `p` can change: client memory, the trace and the staging byte. -/
structure SourceOnly (p : Port) (s t : State) : Prop where
  cfg : t.cfg = s.cfg
  nports : t.nports = s.nports
  base : t.base = s.base
  mode : t.mode = s.mode
  active : t.active = s.active
  rspStatus : t.rspStatus = s.rspStatus
  rspData : t.rspData = s.rspData
  client : t.client = s.client
  answers : t.answers = s.answers
  draws : t.draws = s.draws
  resetPin : t.resetPin = s.resetPin
  other : ∀ r : Port, r ≠ p → t.port r = s.port r
  own : t.port p = { s.port p with txstg := (t.port p).txstg }
  memWf : s.mem.wf = true → t.mem.wf = true

theorem SourceOnly.refl (p : Port) (s : State) : SourceOnly p s s := by
  constructor <;> first | rfl | (intros; first | rfl | assumption)

theorem SourceOnly.trans {p : Port} {s t u : State} (h : SourceOnly p s t) (g : SourceOnly p t u) :
    SourceOnly p s u where
  cfg := g.cfg.trans h.cfg
  nports := g.nports.trans h.nports
  base := g.base.trans h.base
  mode := g.mode.trans h.mode
  active := g.active.trans h.active
  rspStatus := g.rspStatus.trans h.rspStatus
  rspData := g.rspData.trans h.rspData
  client := g.client.trans h.client
  answers := g.answers.trans h.answers
  draws := g.draws.trans h.draws
  resetPin := g.resetPin.trans h.resetPin
  other := fun r hr => (g.other r hr).trans (h.other r hr)
  own := by rw [g.own, h.own]
  memWf := fun hs => g.memWf (h.memWf hs)

theorem SourceOnly.txsrc {p : Port} {s t : State} (h : SourceOnly p s t) : (t.port p).txsrc = (s.port p).txsrc := by
  rw [h.own]

theorem SourceOnly.txbuf {p : Port} {s t : State} (h : SourceOnly p s t) : (t.port p).txbuf = (s.port p).txbuf := by
  rw [h.own]

theorem SourceOnly.txlen {p : Port} {s t : State} (h : SourceOnly p s t) : (t.port p).txlen = (s.port p).txlen := by
  rw [h.own]

theorem SourceOnly.srcFits {p : Port} {s t : State} (h : SourceOnly p s t) (hs : SrcFits s p) : SrcFits t p := by
  unfold SrcFits at *
  rw [h.txsrc, h.txbuf, h.txlen, h.cfg]
  exact hs

theorem SourceOnly.srcAddr {p : Port} {s t : State} (h : SourceOnly p s t) (k : Nat) :
    srcAddr t p k = srcAddr s p k := by
  simp [Sys2Proof.Machine.srcAddr, busAddr, h.txbuf, h.cfg]

theorem sourceOnly_srcRead (p : Port) (k : Nat) (s : State) : SourceOnly p s (srcRead p k s) := by
  constructor <;> simp

theorem sourceOnly_srcWrite (p : Port) (k : Nat) (v : Byte) (s : State) : SourceOnly p s (srcWrite p k v s) := by
  unfold srcWrite
  split
  · constructor <;> first | rfl | (intros; first | rfl | skip)
    · next h => exact Memory.wf_write h
  · constructor <;> first | rfl | skip
    · intro r hr; exact setPort_port_ne _ _ hr
    · simp
    · intro h; exact h

theorem srcAddr_inj {s : State} {p : Port} (hf : (s.port p).txbuf + (s.port p).txlen ≤ 2 ^ s.cfg.addrW) {j k : Nat}
    (hj : j < (s.port p).txlen) (hk : k < (s.port p).txlen) : srcAddr s p j = srcAddr s p k ↔ j = k := by
  unfold srcAddr
  rw [busAddr_of_lt s (by omega), busAddr_of_lt s (by omega)]
  omega

/-- The byte written is the only source byte that changes. -/
theorem srcByte_srcWrite {p : Port} {s : State} (hm : s.mem.wf = true) (hf : SrcFits s p) {j k : Nat} (v : Byte)
    (hj : j < (s.port p).txlen) (hk : k < (s.port p).txlen) :
    srcByte (srcWrite p k v s) p j = if j = k then v else srcByte s p j := by
  have ho := sourceOnly_srcWrite p k v s
  unfold SrcFits at hf
  cases hs : (s.port p).txsrc with
  | mem =>
    rw [hs] at hf
    have h1 : srcWrite p k v s = memWrite (srcAddr s p k) v s := by simp [srcWrite, hs]
    unfold srcByte
    rw [ho.txsrc, hs]
    simp only [ho.srcAddr]
    rw [h1, memWrite_mem, Memory.read_write hm]
    simp only [srcAddr_inj hf hj hk]
  | stage =>
    rw [hs] at hf
    have hjk : j = k := by simp only at hf; omega
    simp [srcByte, srcWrite, hs, hjk]

/-- Client memory outside the source keeps its bytes. -/
theorem srcWrite_read_outside {p : Port} {s : State} {k a : Nat} (v : Byte)
    (h : (s.port p).txsrc = .mem → a ≠ srcAddr s p k) : (srcWrite p k v s).mem.read a = s.mem.read a := by
  unfold srcWrite
  split
  · next hs => rw [memWrite_mem]; exact Memory.read_write_ne (h hs)
  · rfl

/-! ## The slot walk -/

/-- What one slot step does (41_packing.md R123), for a cursor inside the source. -/
theorem slotStep_spec {p : Port} {cur : Nat} {s : State} (hm : s.mem.wf = true) (hf : SrcFits s p)
    (hc : cur < (s.port p).txlen) :
    SourceOnly p s (slotStep p cur s).after ∧
    (∀ j, j < (s.port p).txlen → srcByte (slotStep p cur s).after p j =
      if j = cur ∧ srcByte s p cur = lf then sentinel else srcByte s p j) ∧
    (∀ a, ((s.port p).txsrc = .mem → a ≠ srcAddr s p cur) → (slotStep p cur s).after.mem.read a = s.mem.read a) ∧
    (slotStep p cur s).cur = (if srcByte s p cur = lf then cur else cur + 1) ∧
    (slotStep p cur s).out :: physical (slotStep p cur s).after p (slotStep p cur s).cur
      ((s.port p).txlen - (slotStep p cur s).cur) = physical s p cur ((s.port p).txlen - cur) := by
  have hr := sourceOnly_srcRead p cur s
  have hm' := hr.memWf hm
  have hf' := hr.srcFits hf
  have hl := hr.txlen
  have hlen : (s.port p).txlen - cur = ((s.port p).txlen - (cur + 1)) + 1 := by omega
  by_cases h1 : srcByte s p cur = lf
  · have e : slotStep p cur s = { out := crByte, cur := cur, after := srcWrite p cur sentinel (srcRead p cur s) } := by
      simp [slotStep, h1]
    have hb : ∀ j, j < (s.port p).txlen →
        srcByte (srcWrite p cur sentinel (srcRead p cur s)) p j = if j = cur then sentinel else srcByte s p j := by
      intro j hj
      rw [srcByte_srcWrite hm' hf' sentinel (by omega) (by omega), srcByte_srcRead]
    rw [e]
    refine ⟨hr.trans (sourceOnly_srcWrite _ _ _ _), ?_, ?_, by simp [h1], ?_⟩
    · intro j hj; simp [hb j hj, h1]
    · intro a ha
      rw [srcWrite_read_outside, srcRead_mem]
      rw [hr.txsrc, hr.srcAddr]; exact ha
    · simp only [physical, srcBytes, hlen, List.range'_succ, List.map_cons, List.flatMap_cons]
      rw [hb cur hc, h1]
      have : (List.range' (cur + 1) ((s.port p).txlen - (cur + 1))).map
          (srcByte (srcWrite p cur sentinel (srcRead p cur s)) p) =
          (List.range' (cur + 1) ((s.port p).txlen - (cur + 1))).map (srcByte s p) := by
        refine List.map_congr_left fun j hj => ?_
        have := List.mem_range'_1.1 hj
        rw [hb j (by omega), if_neg (by omega)]
      rw [this, if_pos rfl]
      rfl
  · have hb : ∀ j, srcByte (srcRead p cur s) p j = srcByte s p j := fun j => srcByte_srcRead p cur j s
    have ha : (slotStep p cur s).after = srcRead p cur s := by
      simp only [slotStep, h1, if_false]; split <;> rfl
    have hcur : (slotStep p cur s).cur = cur + 1 := by
      simp only [slotStep, h1, if_false]; split <;> rfl
    have hout : (slotStep p cur s).out = if srcByte s p cur = sentinel then lf else srcByte s p cur := by
      simp only [slotStep, h1, if_false]; split <;> simp_all
    rw [ha, hcur, hout]
    refine ⟨hr, ?_, ?_, by simp [h1], ?_⟩
    · intro j hj; simp [h1]
    · intro a _; rw [srcRead_mem]
    · simp only [physical, srcBytes, hlen, List.range'_succ, List.map_cons, List.flatMap_cons]
      rw [show srcByte (srcRead p cur s) p = srcByte s p from funext hb]
      by_cases h2 : srcByte s p cur = sentinel
      · simp [expand, h2, lf, sentinel]
      · simp [expand, h1, h2]

/-- A word's lanes filled from `j` on with the given bytes. -/
def fillLanes : Nat → Word → List Byte → Word
  | _, w, [] => w
  | j, w, b :: bs => fillLanes (j + 1) (lanePut w j b) bs

theorem physical_length_pos {s : State} {p : Port} {j n : Nat} : n ≤ (physical s p j n).length := by
  have : ∀ bs : List Byte, bs.length ≤ (bs.flatMap expand).length := by
    intro bs
    induction bs with
    | nil => simp
    | cons b bs ih =>
      have : 1 ≤ (expand b).length := by unfold expand; split <;> (try split) <;> simp
      simp only [List.flatMap_cons, List.length_append, List.length_cons]; omega
  have h := this (srcBytes s p j n)
  simpa [physical, srcBytes] using h

/-- What packing some slots does (41_packing.md R126, R128): it takes the next bytes of the physical stream, marks only
`LF` bytes from the cursor on, and leaves the rest of the stream to come. -/
theorem packFrom_spec {p : Port} (n j : Nat) (w : Word) {cur : Nat} {s : State} (hm : s.mem.wf = true)
    (hf : SrcFits s p) (hc : cur ≤ (s.port p).txlen)
    (hn : n ≤ (physical s p cur ((s.port p).txlen - cur)).length) :
    SourceOnly p s (packFrom p n j w cur s).after ∧
    cur ≤ (packFrom p n j w cur s).cur ∧ (packFrom p n j w cur s).cur ≤ (s.port p).txlen ∧
    (packFrom p n j w cur s).word = fillLanes j w ((physical s p cur ((s.port p).txlen - cur)).take n) ∧
    physical (packFrom p n j w cur s).after p (packFrom p n j w cur s).cur
      ((s.port p).txlen - (packFrom p n j w cur s).cur) = (physical s p cur ((s.port p).txlen - cur)).drop n ∧
    (∀ k, k < (s.port p).txlen → srcByte (packFrom p n j w cur s).after p k = srcByte s p k ∨
      (cur ≤ k ∧ k ≤ (packFrom p n j w cur s).cur ∧ srcByte s p k = lf ∧
        srcByte (packFrom p n j w cur s).after p k = sentinel)) ∧
    (∀ a, ((s.port p).txsrc = .mem → ∀ k, k < (s.port p).txlen → a ≠ srcAddr s p k) →
      (packFrom p n j w cur s).after.mem.read a = s.mem.read a) := by
  induction n generalizing j w cur s with
  | zero =>
    refine ⟨SourceOnly.refl _ _, Nat.le_refl _, hc, ?_, ?_, fun _ _ => .inl rfl, fun _ _ => rfl⟩ <;>
      simp [packFrom, fillLanes]
  | succ n ih =>
    have hcl : cur < (s.port p).txlen := by
      rcases Nat.lt_or_ge cur (s.port p).txlen with h | h
      · exact h
      · rw [show (s.port p).txlen - cur = 0 by omega] at hn
        simp [physical, srcBytes] at hn
    obtain ⟨h1, h2, h3, h4, h5⟩ := slotStep_spec hm hf hcl
    have hl := h1.txlen
    rw [← h5] at hn
    have hc' : (slotStep p cur s).cur ≤ ((slotStep p cur s).after.port p).txlen := by
      rw [hl, h4]; split <;> omega
    obtain ⟨g1, g2, g3, g4, g5, g6, g7⟩ := ih (j + 1) (lanePut w j (slotStep p cur s).out) (h1.memWf hm)
      (h1.srcFits hf) hc' (by rw [hl]; simpa using hn)
    rw [hl] at g3 g4 g5 g6 g7
    simp only [packFrom]
    refine ⟨h1.trans g1, ?_, g3, ?_, ?_, ?_, ?_⟩
    · have : cur ≤ (slotStep p cur s).cur := by rw [h4]; split <;> omega
      omega
    · rw [g4, ← h5]; rfl
    · rw [g5, ← h5]; rfl
    · intro k hk
      have hcc : cur ≤ (slotStep p cur s).cur := by rw [h4]; split <;> omega
      have hk2 := h2 k hk
      rcases g6 k hk with h | ⟨a1, a2, a3, a4⟩
      · rw [h, hk2]
        split
        · next hh =>
          right
          rw [hh.1]
          exact ⟨Nat.le_refl _, by omega, hh.2, rfl⟩
        · left; rfl
      · right
        refine ⟨by omega, a2, ?_, a4⟩
        rw [hk2] at a3
        split at a3
        · exact absurd a3 (by decide)
        · exact a3
    · intro a ha
      rw [g7 a (by rw [h1.txsrc]; intro hs k hk; rw [h1.srcAddr]; exact ha hs k hk)]
      exact h3 a fun hs => ha hs cur hcl

/-! ## The restore pass -/

theorem restoreByte_spec {p : Port} {j : Nat} {s : State} (hm : s.mem.wf = true) (hf : SrcFits s p)
    (hj : j < (s.port p).txlen) :
    SourceOnly p s (restoreByte p j s) ∧
    (∀ k, k < (s.port p).txlen →
      srcByte (restoreByte p j s) p k = if k = j then restored (srcByte s p k) else srcByte s p k) ∧
    (∀ a, ((s.port p).txsrc = .mem → a ≠ srcAddr s p j) → (restoreByte p j s).mem.read a = s.mem.read a) := by
  have hr := sourceOnly_srcRead p j s
  by_cases h1 : srcByte s p j = sentinel
  · have e : restoreByte p j s = srcWrite p j lf (srcRead p j s) := by simp [restoreByte, h1]
    rw [e]
    refine ⟨hr.trans (sourceOnly_srcWrite _ _ _ _), ?_, ?_⟩
    · intro k hk
      rw [srcByte_srcWrite (hr.memWf hm) (hr.srcFits hf) lf (by rw [hr.txlen]; omega) (by rw [hr.txlen]; omega),
        srcByte_srcRead]
      by_cases hkj : k = j
      · subst hkj; simp [restored, h1]
      · simp [hkj]
    · intro a ha
      rw [srcWrite_read_outside, srcRead_mem]
      rw [hr.txsrc, hr.srcAddr]; exact ha
  · have e : restoreByte p j s = srcRead p j s := by simp [restoreByte, h1]
    rw [e]
    refine ⟨hr, ?_, ?_⟩
    · intro k hk
      rw [srcByte_srcRead]
      by_cases hkj : k = j
      · subst hkj; simp [restored, h1]
      · simp [hkj]
    · intro a _; rw [srcRead_mem]

/-- What the restore pass does (41_packing.md R127): every source byte it covers that holds `SENTINEL` becomes `LF`,
every other byte is unchanged. -/
theorem restoreFrom_spec {p : Port} (n j : Nat) {s : State} (hm : s.mem.wf = true) (hf : SrcFits s p)
    (hj : j + n ≤ (s.port p).txlen) :
    SourceOnly p s (restoreFrom p n j s) ∧
    (∀ k, k < (s.port p).txlen →
      srcByte (restoreFrom p n j s) p k = if j ≤ k ∧ k < j + n then restored (srcByte s p k) else srcByte s p k) ∧
    (∀ a, ((s.port p).txsrc = .mem → ∀ k, k < (s.port p).txlen → a ≠ srcAddr s p k) →
      (restoreFrom p n j s).mem.read a = s.mem.read a) := by
  induction n generalizing j s with
  | zero =>
    refine ⟨SourceOnly.refl _ _, ?_, fun _ _ => rfl⟩
    intro k _
    rw [if_neg (by omega)]; rfl
  | succ n ih =>
    obtain ⟨h1, h2, h3⟩ := restoreByte_spec hm hf (by omega : j < (s.port p).txlen)
    obtain ⟨g1, g2, g3⟩ := ih (j + 1) (h1.memWf hm) (h1.srcFits hf) (by rw [h1.txlen]; omega)
    rw [h1.txlen] at g2 g3
    simp only [restoreFrom]
    refine ⟨h1.trans g1, ?_, ?_⟩
    · intro k hk
      rw [g2 k hk, h2 k hk]
      by_cases hkj : k = j
      · subst hkj
        rw [if_neg (by omega), if_pos rfl, if_pos (by omega)]
      · rw [if_neg hkj]
        by_cases hr : j + 1 ≤ k ∧ k < j + 1 + n
        · rw [if_pos hr, if_pos (by omega)]
        · rw [if_neg hr, if_neg (by omega)]
    · intro a ha
      rw [g3 a (by rw [h1.txsrc]; intro hs k hk; rw [h1.srcAddr]; exact ha hs k hk)]
      exact h3 a fun hs => ha hs j (by omega)

/-! ## Events of the passes -/

/-- A read of client memory. -/
def isMrd : Event → Bool
  | .mrd _ _ => true
  | _ => false

/-- The events one slot step or one restored byte records: client memory only, none for the staging byte, and one read of
client memory for a WRITE. -/
def PassEvents (s t : State) (p : Port) (reads : Nat) : Prop :=
  ∃ es : List Event, t.trace = s.trace ++ es ∧ (∀ e ∈ es, e.isMem = true) ∧
    ((s.port p).txsrc = .stage → es = []) ∧ ((s.port p).txsrc = .mem → (es.filter isMrd).length = reads)

theorem PassEvents.trans {s t u : State} {p : Port} {a b : Nat} (h : PassEvents s t p a) (g : PassEvents t u p b)
    (hs : (t.port p).txsrc = (s.port p).txsrc) : PassEvents s u p (a + b) := by
  obtain ⟨es, h1, h2, h3, h4⟩ := h
  obtain ⟨fs, g1, g2, g3, g4⟩ := g
  rw [hs] at g3 g4
  refine ⟨es ++ fs, by rw [g1, h1, List.append_assoc], ?_, ?_, ?_⟩
  · intro e he
    rcases List.mem_append.1 he with he | he
    · exact h2 e he
    · exact g2 e he
  · intro hp; rw [h3 hp, g3 hp]; rfl
  · intro hp; rw [List.filter_append, List.length_append, h4 hp, g4 hp]

theorem passEvents_refl (s : State) (p : Port) : PassEvents s s p 0 :=
  ⟨[], by simp, by simp, by simp, by simp⟩

theorem passEvents_srcRead (p : Port) (k : Nat) (s : State) : PassEvents s (srcRead p k s) p 1 := by
  refine ⟨srcReadEvents s p k, by rw [srcRead_eq], ?_, ?_, ?_⟩
  · intro e he
    unfold srcReadEvents at he
    split at he
    · simp only [List.mem_singleton] at he; subst he; rfl
    · simp at he
  · intro h; simp [srcReadEvents, h]
  · intro h; simp only [srcReadEvents, h]; rfl

theorem passEvents_srcWrite (p : Port) (k : Nat) (v : Byte) (s : State) : PassEvents s (srcWrite p k v s) p 0 := by
  cases h : (s.port p).txsrc with
  | mem =>
    refine ⟨[.mwr (srcAddr s p k) v], by simp [srcWrite, h], ?_, by simp [h], fun _ => rfl⟩
    intro e he
    simp only [List.mem_singleton] at he; subst he; rfl
  | stage => exact ⟨[], by simp [srcWrite, h], by simp, by simp, by simp [h]⟩

theorem passEvents_slotStep (p : Port) (cur : Nat) (s : State) : PassEvents s (slotStep p cur s).after p 1 := by
  have h := passEvents_srcRead p cur s
  unfold slotStep
  simp only
  split
  · exact h.trans (passEvents_srcWrite _ _ _ _) (sourceOnly_srcRead p cur s).txsrc
  · split <;> exact h

theorem sourceOnly_slotStep (p : Port) (cur : Nat) (s : State) : SourceOnly p s (slotStep p cur s).after := by
  unfold slotStep
  simp only
  split
  · exact (sourceOnly_srcRead _ _ _).trans (sourceOnly_srcWrite _ _ _ _)
  · split <;> exact sourceOnly_srcRead _ _ _

theorem sourceOnly_packFrom (p : Port) (n j : Nat) (w : Word) (cur : Nat) (s : State) :
    SourceOnly p s (packFrom p n j w cur s).after := by
  induction n generalizing j w cur s with
  | zero => exact SourceOnly.refl _ _
  | succ n ih => exact (sourceOnly_slotStep p cur s).trans (ih _ _ _ _)

/-- Packing `n` slots makes one read of client memory per slot (42_transmit.md R146). -/
theorem passEvents_packFrom (p : Port) (n j : Nat) (w : Word) (cur : Nat) (s : State) :
    PassEvents s (packFrom p n j w cur s).after p n := by
  induction n generalizing j w cur s with
  | zero => exact passEvents_refl _ _
  | succ n ih =>
    have := (passEvents_slotStep p cur s).trans (ih (j + 1) (lanePut w j (slotStep p cur s).out)
      (slotStep p cur s).cur (slotStep p cur s).after)
      (sourceOnly_slotStep p cur s).txsrc
    rw [Nat.add_comm 1 n] at this
    exact this

theorem sourceOnly_restoreByte (p : Port) (j : Nat) (s : State) : SourceOnly p s (restoreByte p j s) := by
  unfold restoreByte
  simp only
  split
  · exact (sourceOnly_srcRead _ _ _).trans (sourceOnly_srcWrite _ _ _ _)
  · exact sourceOnly_srcRead _ _ _

theorem sourceOnly_restoreFrom (p : Port) (n j : Nat) (s : State) : SourceOnly p s (restoreFrom p n j s) := by
  induction n generalizing j s with
  | zero => exact SourceOnly.refl _ _
  | succ n ih => exact (sourceOnly_restoreByte p j s).trans (ih _ _)

theorem passEvents_restoreFrom (p : Port) (n j : Nat) (s : State) : PassEvents s (restoreFrom p n j s) p n := by
  induction n generalizing j s with
  | zero => exact passEvents_refl _ _
  | succ n ih =>
    have hb : PassEvents s (restoreByte p j s) p 1 := by
      unfold restoreByte
      simp only
      split
      · exact (passEvents_srcRead p j s).trans (passEvents_srcWrite _ _ _ _) (sourceOnly_srcRead p j s).txsrc
      · exact passEvents_srcRead p j s
    have := hb.trans (ih (j + 1) (restoreByte p j s)) (sourceOnly_restoreByte p j s).txsrc
    rw [Nat.add_comm 1 n] at this
    exact this

end Sys2Proof.Machine
end

