-- ==== Sys2Proof/Laws/PerInstr.lean ====
section
/-! SUPPORT. A fact made for each instruction: the fields of the command word of its encoding. -/

namespace Sys2Proof

theorem opBits_lt (op : Op) : (opBits op).toNat ≤ 4 := by cases op <;> decide

/-- The value of a command word built from its fields. -/
theorem commandWord_toNat (op : Op) (wait : Bool) (port : PortField) (byte : Byte) :
    (commandWord op wait port byte).toNat =
      (opBits op).toNat + 2 ^ 3 * wait.toNat + 2 ^ 8 * port.toNat + 2 ^ 16 * byte.toNat := by
  have h1 := opBits_lt op
  have h2 := port.isLt
  have h3 := byte.isLt
  have h4 : wait.toNat ≤ 1 := Bool.toNat_le wait
  simp only [commandWord, BitVec.toNat_ofNat]
  exact Nat.mod_eq_of_lt (by omega)

/-- Every field of a command word built from fields is the field it was built from. -/
theorem fields_commandWord (op : Op) (wait : Bool) (port : PortField) (byte : Byte) :
    CW.op (commandWord op wait port byte) = opBits op ∧ CW.wait (commandWord op wait port byte) = wait ∧
    CW.rsv0 (commandWord op wait port byte) = 0 ∧ CW.port (commandWord op wait port byte) = port ∧
    CW.byte (commandWord op wait port byte) = byte ∧ CW.rsv1 (commandWord op wait port byte) = 0 := by
  have h1 := opBits_lt op
  have h2 := port.isLt
  have h3 := byte.isLt
  have h4 : wait.toNat ≤ 1 := Bool.toNat_le wait
  refine ⟨?_, ?_, ?_, ?_, ?_, ?_⟩
  · apply BitVec.eq_of_toNat_eq
    simp only [CW.op, BitVec.extractLsb'_toNat, commandWord_toNat, Nat.shiftRight_eq_div_pow]
    omega
  · have h : CW.wait (commandWord op wait port byte) = decide ((commandWord op wait port byte).toNat / 2 ^ 3 % 2 = 1) := by
      simp [CW.wait, BitVec.getLsbD, Nat.testBit_eq_decide_div_mod_eq]
    rw [h, commandWord_toNat]
    cases wait <;> simp only [Bool.toNat_false, Bool.toNat_true] <;> simp only [decide_eq_true_eq, decide_eq_false_iff_not] <;> omega
  · apply BitVec.eq_of_toNat_eq
    simp only [CW.rsv0, BitVec.extractLsb'_toNat, commandWord_toNat, Nat.shiftRight_eq_div_pow, BitVec.toNat_zero,
      BitVec.ofNat_eq_ofNat]
    omega
  · apply BitVec.eq_of_toNat_eq
    simp only [CW.port, BitVec.extractLsb'_toNat, commandWord_toNat, Nat.shiftRight_eq_div_pow]
    omega
  · apply BitVec.eq_of_toNat_eq
    simp only [CW.byte, BitVec.extractLsb'_toNat, commandWord_toNat, Nat.shiftRight_eq_div_pow]
    omega
  · apply BitVec.eq_of_toNat_eq
    simp only [CW.rsv1, BitVec.extractLsb'_toNat, commandWord_toNat, Nat.shiftRight_eq_div_pow, BitVec.toNat_zero,
      BitVec.ofNat_eq_ofNat]
    omega

end Sys2Proof

namespace Sys2Proof.Laws.EncodedFields

open Sys2Proof

/-- The command word of `i` holds the opcode of `i` and its port, its reserved fields are 0, WAIT is 0 but for GET_CHAR
and BYTE is 0 but for PUT_CHAR (30_encoding.md R71, R77). -/
def Statement (i : Instr) : Prop :=
  CW.op (encode i).cw = opBits i.op ∧ CW.port (encode i).cw = i.port ∧
  CW.rsv0 (encode i).cw = 0 ∧ CW.rsv1 (encode i).cw = 0 ∧
  (i.op ≠ .getChar → CW.wait (encode i).cw = false) ∧ (i.op ≠ .putChar → CW.byte (encode i).cw = 0)

theorem init (port : PortField) (uartBase clkBase : Nat) : Statement (.init port uartBase clkBase) := by
  obtain ⟨h1, h2, h3, h4, h5, h6⟩ := fields_commandWord .init false port 0
  exact ⟨h1, h4, h3, h6, fun _ => h2, fun _ => h5⟩

theorem putc (port : PortField) (byte : Byte) : Statement (.putc port byte) := by
  obtain ⟨h1, h2, h3, h4, h5, h6⟩ := fields_commandWord .putChar false port byte
  exact ⟨h1, h4, h3, h6, fun _ => h2, fun h => absurd rfl h⟩

theorem getc (port : PortField) (wait : Bool) : Statement (.getc port wait) := by
  obtain ⟨h1, h2, h3, h4, h5, h6⟩ := fields_commandWord .getChar wait port 0
  exact ⟨h1, h4, h3, h6, fun h => absurd rfl h, fun _ => h5⟩

theorem write (port : PortField) (buf : Nat) (len : Word) : Statement (.write port buf len) := by
  obtain ⟨h1, h2, h3, h4, h5, h6⟩ := fields_commandWord .write false port 0
  exact ⟨h1, h4, h3, h6, fun _ => h2, fun _ => h5⟩

theorem lookup (port : PortField) : Statement (.lookup port) := by
  obtain ⟨h1, h2, h3, h4, h5, h6⟩ := fields_commandWord .lookup false port 0
  exact ⟨h1, h4, h3, h6, fun _ => h2, fun _ => h5⟩

end Sys2Proof.Laws.EncodedFields
end

