-- ==== Sys2Proof/Laws/Step.lean ====
section
/-! SUPPORT. What one step can be: the cases of the sequencer and of the two FSMs, said once. -/

namespace Sys2Proof.Machine

/-! ## The port check -/

theorem resolvePort_registered {s : State} {port : PortField} {p : Port} (h : Registered s port p) :
    resolvePort port s = some p := by
  obtain ⟨h1, h2⟩ := h
  unfold resolvePort
  rw [dif_pos (by omega)]
  exact congrArg some (Fin.ext h1)

theorem resolvePort_unregistered {s : State} {port : PortField} (h : s.nports.val ≤ port.toNat) :
    resolvePort port s = none := by
  unfold resolvePort
  rw [dif_neg (by omega)]

/-- The port check finds exactly the registered port of that number. -/
theorem resolvePort_eq_some {s : State} {port : PortField} {p : Port} :
    resolvePort port s = some p ↔ Registered s port p := by
  constructor
  · intro h
    unfold resolvePort at h
    split at h
    · next hlt =>
      have := congrArg Fin.val (Option.some.inj h)
      simp only at this
      exact ⟨this, by omega⟩
    · simp at h
  · exact resolvePort_registered

theorem resolvePort_congr {s t : State} (h : t.nports = s.nports) (port : PortField) :
    resolvePort port t = resolvePort port s := by
  simp [resolvePort, h]

/-- A port id is the number of the port field that names it. -/
theorem toNat_ofPort (p : Port) : (BitVec.ofNat 8 p.val).toNat = p.val := by
  have : p.val < 4 := p.isLt
  rw [BitVec.toNat_ofNat]
  exact Nat.mod_eq_of_lt (by omega)

theorem registered_ofPort {s : State} {p : Port} (h : p.val < s.nports.val) : Registered s (BitVec.ofNat 8 p.val) p :=
  ⟨toNat_ofPort p, h⟩

/-! ## Runs -/

@[simp] theorem run_zero (s : State) : run 0 s = .next s := rfl

theorem run_succ_next {n : Nat} {s t : State} (h : step s = .next t) : run (n + 1) s = run n t := by
  simp only [run, h]

theorem run_add {m n : Nat} {s t : State} (h : run m s = .next t) : run (m + n) s = run n t := by
  induction m generalizing s with
  | zero => cases h; rw [Nat.zero_add]
  | succ m ih =>
    rw [Nat.succ_add]
    cases hs : step s with
    | next u =>
      rw [run_succ_next hs] at h ⊢
      exact ih h
    | fault f => simp [run, hs] at h
    | refused why => simp [run, hs] at h

/-! ## One step -/

/-- A run that is not refused steps as `cycleRun` says. -/
theorem step_of_not_refused {s : State} (h : s.refused = none) : step s = cycleRun s := by
  simp [step, cycle, h]

theorem txRun_next (p : Port) (s : State) : ∃ t, txRun p s = .next t := by
  simp only [txRun]
  split <;> exact ⟨_, rfl⟩

/-- Every accepted instruction answers a next state: no meaning stops. -/
theorem exec_next (i : Instr) (s : State) : ∃ t, exec i s = .next t := by
  cases i with
  | init port uartBase clkBase => simp only [exec, execInit]; split_ifs <;> exact ⟨_, rfl⟩
  | putc port byte =>
    simp only [exec, execPutc]
    split
    · exact ⟨_, rfl⟩
    · exact txRun_next _ _
  | getc port wait =>
    simp only [exec, execGetc]
    split
    · exact ⟨_, rfl⟩
    · split <;> exact ⟨_, rfl⟩
  | write port buf len =>
    simp only [exec, execWrite]
    split
    · exact ⟨_, rfl⟩
    · split_ifs
      · exact ⟨_, rfl⟩
      · exact ⟨_, rfl⟩
      · exact txRun_next _ _
  | lookup port =>
    simp only [exec, execLookup]
    split <;> exact ⟨_, rfl⟩

/-- The cases of a step that answers a next state. -/
theorem step_cases {s t : State} (h : step s = .next t) :
    s.refused = none ∧
    ((s.resetPin = true ∧ t = resetBlock s) ∨
    (s.resetPin = false ∧ s.mode = .run ∧ s.active = none ∧ takeClient s = .next t) ∨
    (s.resetPin = false ∧ s.mode = .run ∧ ∃ op port, s.active = some (op, port) ∧ advance op port s = .next t)) := by
  unfold step cycle at h
  cases hf : s.refused with
  | some why => simp [hf] at h
  | none =>
  refine ⟨rfl, ?_⟩
  rw [hf] at h
  simp only [cycleRun] at h
  split at h
  · next hr => left; exact ⟨hr, (Host.Outcome.next.inj h).symm⟩
  · next hr =>
    have hr : s.resetPin = false := by simpa using hr
    right
    split at h
    · simp at h
    · next hm =>
      split at h
      · next ha => left; exact ⟨hr, hm, ha, h⟩
      · next op port ha => right; exact ⟨hr, hm, op, port, ha, h⟩

/-- The cases of a free block's step. -/
theorem takeClient_cases {s t : State} (h : takeClient s = .next t) :
    (s.client = [] ∧ t = s) ∨
    (∃ a v rest, s.client = .store a v :: rest ∧ t = clientStore a v { s with client := rest }) ∨
    (∃ r rest why, s.client = .request r :: rest ∧ decode s.cfg.addrW r = .illegal why ∧
      t = respond .errIllegal 0 { s with client := rest }) ∨
    (∃ r rest i, s.client = .request r :: rest ∧ decode s.cfg.addrW r = .legal i ∧
      exec i { s with client := rest } = .next t) := by
  unfold takeClient at h
  split at h
  · next hc => left; exact ⟨hc, (Host.Outcome.next.inj h).symm⟩
  · next a v rest hc => right; left; exact ⟨a, v, rest, hc, (Host.Outcome.next.inj h).symm⟩
  · next r rest hc =>
    right; right
    unfold accept at h
    split at h
    · next why hd => left; exact ⟨r, rest, why, hc, hd, (Host.Outcome.next.inj h).symm⟩
    · next i hd => right; exact ⟨r, rest, i, hc, hd, h⟩

/-- The cases of a step of the request in progress. -/
theorem advance_cases {s t : State} {op : Op} {port : PortField} (h : advance op port s = .next t) :
    ∃ p : Port, Registered s port p ∧
      (((op = .putChar ∨ op = .write) ∧ txStep p s = .next t) ∨ (op = .getChar ∧ rxStep p s = .next t)) := by
  unfold advance at h
  split at h
  · next p hp => exact ⟨p, resolvePort_eq_some.1 hp, .inl ⟨.inl rfl, h⟩⟩
  · next p hp => exact ⟨p, resolvePort_eq_some.1 hp, .inl ⟨.inr rfl, h⟩⟩
  · next p hp => exact ⟨p, resolvePort_eq_some.1 hp, .inr ⟨rfl, h⟩⟩
  · simp at h

/-- The seven steps of a transmit (42_transmit.md R144 to R150). -/
theorem txStep_cases {p : Port} {s t : State} (h : txStep p s = .next t) :
    ((s.port p).txs = .waitFifoEmpty ∧ (s.port p).txsub = .checkEmpty ∧ t = txCheckEmpty p s) ∨
    ((s.port p).txs = .waitFifoEmpty ∧ (s.port p).txsub = .pollTxready ∧ t = txPollTxready p s) ∨
    ((s.port p).txs = .criticalWrite ∧ (s.port p).txsub = .none ∧ t = txCriticalWrite p s) ∨
    ((s.port p).txs = .packAndDrain ∧ (s.port p).txsub = .pack ∧ t = txPack p s) ∨
    ((s.port p).txs = .packAndDrain ∧ (s.port p).txsub = .pollTxrdy ∧ t = txPollTxrdy p s) ∨
    ((s.port p).txs = .packAndDrain ∧ (s.port p).txsub = .push ∧ t = txPush p s) ∨
    ((s.port p).txs = .packAndDrain ∧ (s.port p).txsub = .restore ∧ t = txRestore p s) := by
  unfold txStep at h
  cases h1 : (s.port p).txs <;> cases h2 : (s.port p).txsub <;> rw [h1, h2] at h <;> cases h <;> simp

/-- The nine steps of a fetch (43_receive.md R171). -/
theorem rxStep_cases {p : Port} {s t : State} (h : rxStep p s = .next t) :
    ((s.port p).rxs = .fOvrCheck ∧ t = rxOvrCheck p s) ∨ ((s.port p).rxs = .fOvrClear ∧ t = rxOvrClear p s) ∨
    ((s.port p).rxs = .fRdyCheck ∧ t = rxRdyCheck p s) ∨ ((s.port p).rxs = .fRead ∧ t = rxRead p s) ∨
    ((s.port p).rxs = .fOccCheck ∧ t = rxOccCheck p s) ∨ ((s.port p).rxs = .fForceStale ∧ t = rxForceStale p s) ∨
    ((s.port p).rxs = .fStaleRead ∧ t = rxStaleRead p s) ∨
    ((s.port p).rxs = .fResetStale ∧ t = rxResetStale p s) ∨ ((s.port p).rxs = .fRearm ∧ t = rxRearm p s) := by
  unfold rxStep at h
  cases h1 : (s.port p).rxs <;> rw [h1] at h <;> cases h <;> simp

end Sys2Proof.Machine
end

