-- ==== Sys2Proof/Tests/Slice0.lean ====
section
/-! SUPPORT. Tests of the model: expected values are the vectors of 95_test_vectors.md and hand expansions of the rules.
Then, for each statement with hypotheses, states that meet them (a witness per clause). -/

namespace Sys2Proof.Tests

open Sys2Proof Sys2Proof.Machine

/-! ## Small states -/

/-- An instantiation of the OPEN parameters, for tests alone. -/
def tParams : Params :=
  { addrW := 32, ncharW := 32, offSR := 0x40, offISR := 0x44, offCR := 0x48, offTF := 0x4C, offRF := 0x50,
    offNCHAR := 0x54, offRXWM := 0x58, offRXOCC := 0x5C, srOverrun := 4, srRxrdy := 0, srTxrdy := 2, srTxemt := 3,
    isrTxready := 7, rxoccMask := 0x3F, cmdResetRx := 0x10, cmdResetTx := 0x20, cmdResetErr := 0x30,
    cmdForceStale := 0x40, cmdResetStale := 0x50, cmdResetTxready := 0x60, rxwmRearm := 0x01 }

/-- After reset, with those parameters. -/
def tReset : State := { State.reset with cfg := tParams }

/-- One port registered at the base of the source's scenario. -/
def tOne : State := { tReset with nports := 1, base := { p0 := 0x1000, p1 := 0, p2 := 0, p3 := 0 } }

/-- A full registry. -/
def tFull : State :=
  { tReset with nports := 4, base := { p0 := 0x1000, p1 := 0x2000, p2 := 0x3000, p3 := 0x4000 } }

/-- `tFull` after the capacity fault. -/
def tFatal : State := { tFull with mode := .fatal, active := some (.init, 9) }

/-- `tOne` with the registers of port 0 replaced. -/
def tPort0 (q : PortState) : State := { tOne with ports := { tOne.ports with p0 := q } }

/-- `tOne` with the given bytes of client memory at 0x8000. -/
def tMem (m : Memory) : State := { tOne with mem := m }

/-- The buffer of vector T-TX-04. -/
def tBuf : Memory := [(0x8000, 0x41), (0x8001, 0x42), (0x8002, 0x0A), (0x8003, 0x43)]

/-- A WRITE of that buffer in progress on port 0, in the given state of its FSM. -/
def tWriting (txs : TxState) (sub : TxSub) (i cur : Nat) (w : Word) (m : Memory) : State :=
  { tPort0 { PortState.reset with
      txs := txs, txsub := sub, txsrc := .mem, txbuf := 0x8000, txlen := 4, txc := 5, txw := 2, txi := i, txcur := cur,
      txword := w } with
    active := some (.write, 0), mem := m }

/-- A PUT_CHAR in progress on port 0, in the given state of its FSM. -/
def tPutting (txs : TxState) (sub : TxSub) (stg : Byte) (i cur : Nat) : State :=
  { tPort0 { PortState.reset with
      txs := txs, txsub := sub, txsrc := .stage, txstg := stg, txlen := 1, txc := 1, txw := 1, txi := i, txcur := cur }
    with active := some (.putChar, 0) }

/-- A GET_CHAR in progress on port 0, in the given sub-state of its fetch. -/
def tFetching (rxs : RxState) (wait : Bool) (tmp : Word) (answers : List Word) : State :=
  { tPort0 { PortState.reset with rxs := rxs, rxwait := wait, rxtmp := tmp } with
    active := some (.getChar, 0), answers := answers }

/-- A transmit of operation `op` is in progress on port 0, in the given state of its FSM. -/
abbrev InTx (op : Op) (txs : TxState) (sub : TxSub) (s : State) : Prop :=
  InProgress op 0 s ∧ (op = .putChar ∨ op = .write) ∧ (s.port 0).txs = txs ∧ (s.port 0).txsub = sub

/-- A fetch is in progress on port 0, in the given sub-state. -/
abbrev InRx (rxs : RxState) (s : State) : Prop := InProgress .getChar 0 s ∧ (s.port 0).rxs = rxs

/-- The client presents `cw`, `a`, `b`. -/
def tRequest (cw : Word) (a b : Nat) (s : State) : State := { s with client := [.request { cw := cw, a := a, b := b }] }

/-- The next state of an answer, if it is one. -/
def nextOf : Result → Option State
  | .next s => some s
  | .fault _ => none
  | .refused _ => none

/-- The invariant of a state from decidable parts. -/
theorem inv_of {s : State} (h1 : s.cfg.wf = true) (h2 : MemInv s) (h3 : RegistryInv s) (h4 : ResponseInv s)
    (h5 : ControlInv s) (h6 : ∀ p : Port, (s.port p).txs ≠ .idle → TxBounds s (s.port p))
    (h7 : ∀ p : Port, (s.port p).txs ≠ .idle → TxLedger s p (s.port p)) : Inv s :=
  ⟨h1, h2, h3, h4, h5, fun p hp => ⟨h6 p hp, h7 p hp⟩⟩

/-! ## WellFormed: one ill-formed term per check -/

theorem test_wf_init_base : Instr.wf 32 (.init 0 0x100000000 0) = false := by decide
theorem test_wf_init_clk : Instr.wf 32 (.init 0 0x1000 0x100000000) = false := by decide
theorem test_wf_write_buf : Instr.wf 32 (.write 0 0x100000000 4) = false := by decide
theorem test_wf_write_len : Instr.wf 16 (.write 0 0x8000 0x00010000) = false := by decide
theorem test_wf_ok : Instr.wf 32 (.init 0 0xFFFFFFFF 0) = true ∧ Instr.wf 32 (.write 0 0xFFFFFFFF 0xFFFFFFFF) = true ∧
    Instr.wf 32 (.putc 0 0) = true ∧ Instr.wf 32 (.getc 0 true) = true ∧ Instr.wf 32 (.lookup 0) = true := by decide
theorem test_params_wf : tParams.wf = true := by decide
theorem test_params_bad_offset : { tParams with offSR := 0x41 }.wf = false := by decide
theorem test_params_same_offset : { tParams with offSR := 0x44 }.wf = false := by decide
theorem test_params_same_command : { tParams with cmdResetRx := 0x20 }.wf = false := by decide
theorem test_params_zero_mask : { tParams with rxoccMask := 0 }.wf = false := by decide

/-! ## Decoding: words written out from R71 and R73, bit 31 to bit 0 -/

theorem test_decode_init : decode 32 { cw := 0b00000000000000000000001100000000, a := 0x1000, b := 7 } =
    .legal (.init 3 0x1000 7) := by decide
theorem test_decode_putc : decode 32 { cw := 0b00000000010000010000000000000001, a := 0, b := 0 } =
    .legal (.putc 0 0x41) := by decide
theorem test_decode_getc : decode 32 { cw := 0b00000000000000000000000100000010, a := 0, b := 0 } =
    .legal (.getc 1 false) := by decide
theorem test_decode_getc_wait : decode 32 { cw := 0b00000000000000000000001000001010, a := 0, b := 0 } =
    .legal (.getc 2 true) := by decide
theorem test_decode_write : decode 32 { cw := 0b00000000000000000000001100000011, a := 0x8000, b := 0xFFFFFFFB } =
    .legal (.write 3 0x8000 0xFFFFFFFB) := by decide
theorem test_decode_lookup : decode 32 { cw := 0b00000000000000001111111100000100, a := 0, b := 0 } =
    .legal (.lookup 255) := by decide
/-- T-ENC-11 to T-ENC-18. -/
theorem test_decode_illegal :
    decode 32 { cw := 0x00000005, a := 0, b := 0 } = .illegal .reservedOp ∧
    decode 32 { cw := 0x00000007, a := 0, b := 0 } = .illegal .reservedOp ∧
    decode 32 { cw := 0x00000008, a := 0, b := 0 } = .illegal .waitBit ∧
    decode 32 { cw := 0x0000000B, a := 0, b := 0 } = .illegal .waitBit ∧
    decode 32 { cw := 0x00010002, a := 0, b := 0 } = .illegal .byteField ∧
    decode 32 { cw := 0x00000010, a := 0, b := 0 } = .illegal .reservedField ∧
    decode 32 { cw := 0x01410001, a := 0, b := 0 } = .illegal .reservedField ∧
    decode 32 { cw := 0x80000004, a := 0, b := 0 } = .illegal .reservedField := by decide
/-- R74: with a wider operand, only `B[31:0]` is the length. -/
theorem test_decode_write_wide : decode 64 { cw := 3, a := 0x8000, b := 0x700000004 } = .legal (.write 0 0x8000 4) := by
  decide
theorem test_table_word : decodeTableWord 32 0x00410001 = some (.putc 0 0x41) ∧ decodeTableWord 32 7 = none := by decide
/-- R81: examples and pseudo-requests. -/
theorem test_asm : (encode (Asm.putc 0 0x41).instr).cw = 0x00410001 ∧ (encode (Asm.getcW 2).instr).cw = 0x0000020A ∧
    (encode (Asm.newline 1).instr).cw = 0x000A0101 ∧ (encode (Asm.getcNb 1).instr).cw = 0x00000102 ∧
    encode (Asm.write 0 0x8000 (-5)).instr = { cw := 3, a := 0x8000, b := 0xFFFFFFFB } := by decide

/-! ## Packing vectors T-PK -/

theorem test_pack4 : pack4 0x41 0x42 0x43 0x44 = 0x44434241 ∧ pack4 0 0 0 0x80 = 0x80000000 := by decide
theorem test_lanes : laneGet 0x44434241 3 = 0x44 ∧ laneGet 0x44434241 0 = 0x41 ∧
    lanePut 0xFFFFFFFF 2 0x00 = 0xFF00FFFF ∧ lanePut 0 1 0x0D = 0x00000D00 := by decide
theorem test_unpack : unpackByte 0x80000001 = 0x01 ∧ unpackRest 0x80000001 = 0x00800000 ∧
    unpackByte 0x000000FF = 0xFF ∧ unpackRest 0x000000FF = 0 := by decide
theorem test_words : (wordCount 1, wordCount 4, wordCount 5, wordCount 9) = (1, 1, 2, 3) ∧
    (nslots 5 0, nslots 5 1, nslots 9 2) = (4, 1, 1) := by decide
/-- T-PK-18: the `\r\n` pair of `41 42 43 0A` is split across two words. -/
theorem test_pack_split :
    let s := tWriting .packAndDrain .pack 0 0 0 [(0x8000, 0x41), (0x8001, 0x42), (0x8002, 0x43), (0x8003, 0x0A)]
    let o := packWord 0 0 4 s
    o.word = 0x0D434241 ∧ o.cur = 3 ∧ o.after.mem.read 0x8003 = 0x80 ∧ (packWord 0 3 1 o.after).word = 0x0A := by decide
/-- T-PK-10: `count_pass` over `0A 80 0D`. -/
theorem test_count : (countPass 0 3 { tWriting .idle .none 0 0 0 [(0x8000, 0x0A), (0x8001, 0x80), (0x8002, 0x0D)] with
    active := none }).1 = 4 := by decide

/-! ## Memory -/

theorem test_mem_canonical : Memory.write tBuf 0x8001 0 = [(0x8000, 0x41), (0x8002, 0x0A), (0x8003, 0x43)] ∧
    Memory.write tBuf 0x7FFF 5 = (0x7FFF, 5) :: tBuf := by decide
theorem test_mem_wf : Memory.wf tBuf = true ∧ Memory.wf [(2, 1), (1, 1)] = false ∧ Memory.wf [(1, 0)] = false := by
  decide

/-! ## One step per instruction -/

/-- T-REG-01. -/
theorem test_init : (nextOf (step (tRequest 0x00000000 0x1000 0x2000 tReset))).map
    (fun t => (t.nports, t.base.p0, t.active, t.trace)) =
    some (1, 0x1000, none, [.wr 0x1048 0x10, .wr 0x1048 0x20, .rsp 0x00 0]) := by decide
/-- T-REG-07. -/
theorem test_init_full : (nextOf (step (tRequest 0x00000900 0x5000 0 tFull))).map
    (fun t => (t.mode, t.nports, t.active, t.trace)) =
    some (.fatal, 4, some (.init, 9), [.wr 0x5048 0x10, .wr 0x5048 0x20]) := by decide
/-- T-REG-03, T-REG-04, T-TX-09: the mark is set, with no event. -/
theorem test_refusals :
    (nextOf (step (tRequest 0x00000100 0x1001 0 tOne))).map (fun t => (t.refused, t.trace)) =
      some (some .initBaseMisaligned, []) ∧
    (nextOf (step (tRequest 0x00000200 0x3000 0 tOne))).map (fun t => (t.refused, t.trace)) =
      some (some .initIdNotNext, []) ∧
    (nextOf (step (tRequest 0x00000003 0xFFFFFFFE 4 tOne))).map (fun t => (t.refused, t.trace)) =
      some (some .writeRangeWraps, []) := by decide
/-- T-TX-10: the four reads of the count pass are recorded, then the run is refused and goes no further. -/
theorem test_refusal_nchar :
    (nextOf (step (tRequest 0x00000003 0x8000 4
      { tMem [(0x8000, 0x41), (0x8001, 0x42), (0x8002, 0x43), (0x8003, 0x44)] with
        cfg := { tParams with ncharW := 2 } }))).map (fun t => (t.refused, t.trace)) =
      some (some .ncharOverflow, [.mrd 0x8000 0x41, .mrd 0x8001 0x42, .mrd 0x8002 0x43, .mrd 0x8003 0x44]) := by decide
/-- R206: the mark stays, whatever the client presents and whatever the reset input is. -/
theorem test_refused_stays :
    step { tRequest 4 0 0 tOne with refused := some .initIdNotNext, resetPin := true } =
      .refused (.marked .initIdNotNext) := rfl
/-- T-REG-09. -/
theorem test_lookup : (nextOf (step (tRequest 0x00000004 0 0 tOne))).map (·.trace) = some [.rsp 0x00 0x1000] ∧
    (nextOf (step (tRequest 0x0000FF04 0 0 tOne))).map (·.trace) = some [.rsp 0xFF 0] := by decide
/-- R142, R143, R155 for `\n`. -/
theorem test_putc : (nextOf (step (tRequest 0x000A0001 0 0 tOne))).map
    (fun t => (t.ports.p0.txc, t.ports.p0.txw, t.ports.p0.txs, t.ports.p0.txsub, t.trace)) =
    some (2, 1, .waitFifoEmpty, .checkEmpty, []) := by decide
/-- T-TX-04, the count pass. -/
theorem test_write : (nextOf (step (tRequest 0x00000003 0x8000 4 (tMem tBuf)))).map
    (fun t => (t.ports.p0.txc, t.ports.p0.txw, t.active, t.trace)) =
    some (5, 2, some (.write, 0), [.mrd 0x8000 0x41, .mrd 0x8001 0x42, .mrd 0x8002 0x0A, .mrd 0x8003 0x43]) := by decide
/-- T-TX-04, step 4: word 0. -/
theorem test_write_pack : (nextOf (step (tWriting .packAndDrain .pack 0 0 0 tBuf))).map
    (fun t => (t.ports.p0.txword, t.ports.p0.txcur, t.trace)) =
    some (0x0A0D4241, 3, [.mrd 0x8000 0x41, .mrd 0x8001 0x42, .mrd 0x8002 0x0A, .mwr 0x8002 0x80, .mrd 0x8002 0x80]) := by
  decide
/-- The example of R170. -/
theorem test_getc_cached : (nextOf (step (tRequest 0x00000002 0 0 (tPort0 { PortState.reset with rxc := 0x44434241 })))).map
    (fun t => (t.ports.p0.rxc, t.trace)) = some (0x00444342, [.rsp 0x00 0x41]) := by decide
/-- T-RX-08: only the masked field of RXOCC is tested. -/
theorem test_getc_occupancy : (nextOf (step (tFetching .fOccCheck false 0 [0xFFFFFFC0]))).map
    (fun t => (t.rspStatus, t.active, t.ports.p0.rxs)) = some (0x02, none, .idle) := by decide
/-- T-EX-01: a reset inside a WRITE leaves the sentinel in memory and gives no response. -/
theorem test_reset_in_write :
    (nextOf (step { tWriting .packAndDrain .pollTxrdy 0 3 0 [(0x8002, 0x80)] with resetPin := true })).map
      (fun t => (t.ports.p0.txs, t.active, t.trace, t.mem.read 0x8002)) = some (.idle, none, [], 0x80) := by decide
/-- An unreachable combination has no rule. -/
theorem test_no_rule : step (tWriting .idle .pack 0 0 0 []) = .refused .noRule := rfl
/-- The first step after reset runs what `withFetchWord` places. -/
theorem test_withFetchWord : (nextOf (step (State.reset.withFetchWord 32 0x00000004))).map (·.rspStatus) =
    some 0xFF ∧ (nextOf (step (State.reset.withFetchWord 32 0))).isSome = true := by decide

/-! ## Witnesses: the hypotheses of each statement can be met together -/

theorem witness_DecodeOfEncodeIsTheInstruction : Instr.wf 32 (.write 255 0xFFFFFFFF 0xFFFFFFFF) = true := by decide
theorem witness_OperandsAreTheRequestFields :
    (32 : Nat) ≤ 32 ∧ 0xFFFFFFFF < 2 ^ 32 ∧ 0x80000000 < 2 ^ 32 ∧
    decode 32 { cw := 0x0000FF03, a := 0xFFFFFFFF, b := 0x80000000 } = .legal (.write 255 0xFFFFFFFF 0x80000000) ∧
    decode 32 { cw := 0x00FF0001, a := 0, b := 0 } = .legal (.putc 0 0xFF) ∧
    decode 32 { cw := 0x0000000A, a := 0, b := 0 } = .legal (.getc 0 true) ∧
    decode 32 { cw := 0x00000000, a := 1, b := 2 } = .legal (.init 0 1 2) ∧
    decode 32 { cw := 0x00000004, a := 1, b := 2 } = .legal (.lookup 0) := by decide
theorem witness_IgnoredOperandsHaveNoEffect :
    32 ≤ tOne.cfg.addrW ∧ decode tOne.cfg.addrW { cw := 0x00000003, a := 0x8000, b := 4 } = .legal (.write 0 0x8000 4) ∧
    0x100000004 % 2 ^ 32 = 4 % 2 ^ 32 ∧
    decode tOne.cfg.addrW { cw := 0x00000000, a := 0x1000, b := 4 } = .legal (.init 0 0x1000 4) ∧
    decode tOne.cfg.addrW { cw := 0x00000002, a := 5, b := 6 } = .legal (.getc 0 false) := by decide
theorem witness_IllegalWordIsAnsweredErrIllegal :
    Accepting (tRequest 0x00000007 0 0 tOne) ∧
    (tRequest 0x00000007 0 0 tOne).client = [.request { cw := 0x00000007, a := 0, b := 0 }] ∧
    decode tOne.cfg.addrW { cw := 0x00000007, a := 0, b := 0 } = .illegal .reservedOp := by decide
theorem witness_StepRunsTheDecodedRequest :
    Accepting (tRequest 0x00000004 0 0 tOne) ∧
    decode tOne.cfg.addrW { cw := 0x00000004, a := 0, b := 0 } = .legal (.lookup 0) ∧
    (tRequest 0x00000004 0 0 tOne).client = [.request (encode (.lookup 0))] ∧
    Instr.wf tOne.cfg.addrW (.lookup 0) = true := by decide
theorem witness_NothingIsAcceptedWhileBusyOrFatal :
    (tFatal.refused = none ∧ tFatal.resetPin = false ∧ tFatal.mode = .fatal) ∧
    (tPutting .criticalWrite .none 0x41 0 0).active ≠ none ∧
    (nextOf (step (tPutting .criticalWrite .none 0x41 0 0))).isSome = true := by decide
theorem witness_FreeBlockWaitsAndTheClientStores :
    (Accepting tOne ∧ tOne.client = []) ∧
    (Accepting { tOne with client := [.store 0xFFFFFFFF 5] } ∧ tOne.mem.wf = true ∧ 0xFFFFFFFF < 2 ^ tOne.cfg.addrW) := by
  decide
theorem witness_RefusedRunsGoNoFurther :
    { tOne with refused := some .ncharOverflow }.refused = some .ncharOverflow ∧
    (nextOf (step (tRequest 0x00000200 0x3000 0 tOne))).map (·.refused) = some (some .initIdNotNext) := by decide
theorem witness_ResetSetsEveryRegister : tFatal.refused = none ∧ { tFatal with resetPin := true }.resetPin = true := by
  decide
theorem witness_InitRegistersTheNextPort :
    tOne.nports.val < nPorts ∧ 0x2000 % 4 = 0 ∧ (1 : PortField).toNat = tOne.nports.val := by decide
theorem witness_InitOnAFullRegistryIsFatal : 0x5000 % 4 = 0 ∧ tFull.nports = 4 ∧ tFull.resetPin = false := by decide
theorem witness_InitRefusesABadBaseOrId :
    0x1003 % 4 ≠ 0 ∧ 0x3000 % 4 = 0 ∧ tOne.nports.val < 4 ∧ (0 : PortField).toNat ≠ tOne.nports.val := by decide
theorem witness_LookupRespondsTheBase :
    Registered tFull 3 3 ∧ tFull.nports.val ≤ (4 : PortField).toNat := by decide
theorem witness_UnregisteredPortIsAnsweredErrUninit :
    (Instr.op (.write 1 0 0)) ≠ .init ∧ tOne.nports.val ≤ (Instr.port (.write 1 0 0)).toNat := by decide
theorem witness_RegistryGrowsOnlyAtItsEnd :
    (tRequest 0x00000100 0x2000 0 tOne).resetPin = false ∧
    (nextOf (step (tRequest 0x00000100 0x2000 0 tOne))).map (·.nports) = some 2 := by decide
theorem witness_WriteRejectsBadArguments :
    Registered tOne 0 0 ∧ (0 : Nat) = 0 ∧ signedLen 0 ≤ 0 ∧ signedLen 0x80000000 ≤ 0 ∧ signedLen 0xFFFFFFFF ≤ 0 := by decide
theorem witness_WriteRefusesAWrappingBuffer :
    Registered tOne 0 0 ∧ (0xFFFFFFFD : Nat) ≠ 0 ∧ 0 < signedLen 4 ∧
    2 ^ tOne.cfg.addrW - 1 < 0xFFFFFFFD + (4 : Word).toNat - 1 := by decide
theorem witness_CountTooWideIsRefused :
    let s := { tMem tBuf with cfg := { tParams with ncharW := 2 } }
    (Registered s 0 0 ∧ 0 < signedLen 3 ∧ 0x8000 + (3 : Word).toNat ≤ 2 ^ s.cfg.addrW ∧
      2 ^ s.cfg.ncharW - 1 < (3 : Word).toNat + (memBytes s 0x8000 (3 : Word).toNat).count lf) ∧
    (let u := { tOne with cfg := { tParams with ncharW := 1 } }
     Registered u 0 0 ∧ 2 ^ u.cfg.ncharW - 1 < (if (0x0A : Byte) = lf then 2 else 1)) ∧
    tOne.cfg.ncharW = 32 ∧ tOne.refused = none := by decide
theorem witness_WriteStartsItsTransmit :
    Registered (tMem tBuf) 0 0 ∧ (0x8000 : Nat) ≠ 0 ∧ 0 < signedLen 4 ∧
    0x8000 + (4 : Word).toNat ≤ 2 ^ (tMem tBuf).cfg.addrW ∧
    (4 : Word).toNat + (memBytes (tMem tBuf) 0x8000 (4 : Word).toNat).count lf ≤ 2 ^ (tMem tBuf).cfg.ncharW - 1 := by decide
theorem witness_WriteStartsItsTransmit_top :
    (0xFFFFFFFC : Nat) ≠ 0 ∧ 0xFFFFFFFC + (4 : Word).toNat ≤ 2 ^ tOne.cfg.addrW := by decide
theorem witness_PutcStartsItsTransmit :
    Registered tOne 0 0 ∧ (if (0x0A : Byte) = lf then 2 else 1) ≤ 2 ^ tOne.cfg.ncharW - 1 ∧
    (if (0x80 : Byte) = lf then 2 else 1) ≤ 2 ^ tOne.cfg.ncharW - 1 := by decide
theorem witness_WaitFifoEmptyStep :
    InTx .putChar .waitFifoEmpty .checkEmpty (tPutting .waitFifoEmpty .checkEmpty 0x41 0 0) ∧
    InTx .write .waitFifoEmpty .pollTxready (tWriting .waitFifoEmpty .pollTxready 0 0 0 tBuf) := by decide
theorem witness_CriticalWriteStep : InTx .putChar .criticalWrite .none (tPutting .criticalWrite .none 0x41 0 0) := by decide
theorem witness_PackTakesTheNextPhysicalBytes_write :
    Inv (tWriting .packAndDrain .pack 0 0 0 tBuf) ∧ InTx .write .packAndDrain .pack (tWriting .packAndDrain .pack 0 0 0 tBuf) :=
  ⟨inv_of (by decide) (by decide) (by decide) (by decide) (by decide) (by decide) (by decide), by decide⟩
theorem witness_PackTakesTheNextPhysicalBytes_putc :
    Inv (tPutting .packAndDrain .pack 0x41 0 0) ∧ InTx .putChar .packAndDrain .pack (tPutting .packAndDrain .pack 0x41 0 0) :=
  ⟨inv_of (by decide) (by decide) (by decide) (by decide) (by decide) (by decide) (by decide), by decide⟩
theorem witness_PollTxrdyStep : InTx .write .packAndDrain .pollTxrdy (tWriting .packAndDrain .pollTxrdy 1 4 0x43 tBuf) := by decide
theorem witness_PushStep :
    (InTx .write .packAndDrain .push (tWriting .packAndDrain .push 0 3 0 tBuf) ∧
      ((tWriting .packAndDrain .push 0 3 0 tBuf).port 0).txi + 1 < ((tWriting .packAndDrain .push 0 3 0 tBuf).port 0).txw) ∧
    (InTx .write .packAndDrain .push (tWriting .packAndDrain .push 1 4 0 tBuf) ∧
      ((tWriting .packAndDrain .push 1 4 0 tBuf).port 0).txw ≤
        ((tWriting .packAndDrain .push 1 4 0 tBuf).port 0).txi + 1) := by decide
theorem witness_RestoreStepEndsTheTransmit_write :
    Inv (tWriting .packAndDrain .restore 2 4 0 [(0x8002, 0x80)]) ∧
    InTx .write .packAndDrain .restore (tWriting .packAndDrain .restore 2 4 0 [(0x8002, 0x80)]) := ⟨inv_of (by decide) (by decide) (by decide) (by decide) (by decide) (by decide) (by decide), by decide⟩
theorem witness_RestoreStepEndsTheTransmit_putc :
    Inv (tPutting .packAndDrain .restore 0x80 1 1) ∧ InTx .putChar .packAndDrain .restore (tPutting .packAndDrain .restore 0x80 1 1) :=
  ⟨inv_of (by decide) (by decide) (by decide) (by decide) (by decide) (by decide) (by decide), by decide⟩
theorem witness_TransmitPollsRepeatWithoutBound :
    InTx .putChar .waitFifoEmpty .pollTxready { tPutting .waitFifoEmpty .pollTxready 0x41 0 0 with
      answers := [0x17F, 0, 7] } ∧
    InTx .putChar .packAndDrain .pollTxrdy { tPutting .packAndDrain .pollTxrdy 0x41 0 1 with
      answers := [0x1FB, 0, 7] } := by decide
theorem witness_TransmitPollsRepeatWithoutBound_words :
    (∀ v ∈ [0x17F#32, 0#32], v.getLsbD tOne.cfg.isrTxready = false) ∧
    (∀ v ∈ [0x1FB#32, 0#32], v.getLsbD tOne.cfg.srTxrdy = false) := by
  constructor <;> intro v hv <;> rcases List.mem_pair.1 hv with rfl | rfl <;> rfl
theorem witness_PutcRunsToItsResponse :
    Registered tOne 0 0 ∧ tOne.refused = none ∧ tOne.resetPin = false ∧ tOne.mode = .run ∧
    (if (0x0A : Byte) = lf then 2 else 1) ≤ 2 ^ tOne.cfg.ncharW - 1 ∧
    { tOne with answers := [8, 4] }.answers = 8 :: 4 :: [] ∧
    (8 : Word).getLsbD tOne.cfg.srTxemt = true ∧ (4 : Word).getLsbD tOne.cfg.srTxrdy = true := by decide
theorem witness_WriteSendsItsExpandedBytes :
    let s := { tMem tBuf with answers := List.replicate 3 (BitVec.allOnes 32) }
    s.cfg.wf = true ∧ s.mem.wf = true ∧ Registered s 0 0 ∧ s.refused = none ∧ s.resetPin = false ∧ s.mode = .run ∧ 0 < signedLen 4 ∧
    0x8000 + (4 : Word).toNat ≤ 2 ^ s.cfg.addrW ∧
    (4 : Word).toNat + (memBytes s 0x8000 (4 : Word).toNat).count lf ≤ 2 ^ s.cfg.ncharW - 1 ∧
    s.answers = List.replicate (((4 : Word).toNat + (memBytes s 0x8000 (4 : Word).toNat).count lf + 3) / 4 + 1)
      (BitVec.allOnes 32) ++ [] := by decide
theorem witness_WriteSendsItsBytesThroughAnyPolls :
    let e : EmptyCheck := { status := 0x1F7, latch := some { waits := [0x17F], last := 0x80 } }
    let qs : List Poll := [{ waits := [0, 0x1FB], last := 4 }, { waits := [], last := 0x1FF }]
    let s := { tMem tBuf with answers := e.answers ++ qs.flatMap Poll.answers ++ [] }
    s.cfg.wf = true ∧ s.mem.wf = true ∧ Registered s 0 0 ∧ s.refused = none ∧ s.resetPin = false ∧ s.mode = .run ∧
    (0x8000 : Nat) ≠ 0 ∧ 0 < signedLen 4 ∧ 0x8000 + (4 : Word).toNat ≤ 2 ^ s.cfg.addrW ∧
    (4 : Word).toNat + (memBytes s 0x8000 (4 : Word).toNat).count lf ≤ 2 ^ s.cfg.ncharW - 1 ∧
    qs.length = ((4 : Word).toNat + (memBytes s 0x8000 (4 : Word).toNat).count lf + 3) / 4 ∧
    e.ok s.cfg = true ∧ (∀ q ∈ qs, q.ok s.cfg.srTxrdy = true) := by decide
theorem witness_WriteSendsItsBytesThroughAnyPolls_empty :
    EmptyCheck.ok tParams { status := 8, latch := none } = true := by decide
theorem witness_SlotsOfTheWordsAddUpToTheCount : 1 ≤ (9 : Nat) ∧ 2 + 1 < wordCount 13 := by decide
theorem witness_GetcDrainsTheCacheOrStartsAFetch :
    Registered tOne 0 0 ∧ ((tPort0 { PortState.reset with rxc := 0x80000000 }).port 0).rxc ≠ 0 ∧
    (tOne.port 0).rxc = 0 := by decide
theorem witness_FetchFollowsItsTable :
    InRx .fOvrCheck (tFetching .fOvrCheck true 0 [0x10]) ∧ InRx .fOvrClear (tFetching .fOvrClear true 0 []) ∧
    InRx .fRdyCheck (tFetching .fRdyCheck true 0 [1]) ∧ InRx .fRead (tFetching .fRead true 0 [0x45]) := by
  decide
theorem witness_FetchFollowsItsTable_occupancy :
    (InRx .fOccCheck (tFetching .fOccCheck true 0 [1]) ∧
      answer (tFetching .fOccCheck true 0 [1]) &&& tParams.rxoccMask ≠ 0) ∧
    (InRx .fOccCheck (tFetching .fOccCheck true 0 [0x40]) ∧
      answer (tFetching .fOccCheck true 0 [0x40]) &&& tParams.rxoccMask = 0) ∧
    InRx .fOccCheck (tFetching .fOccCheck false 0 [0x40]) := by decide
theorem witness_FetchFollowsItsTable_stale :
    InRx .fForceStale (tFetching .fForceStale false 0 []) ∧
    InRx .fStaleRead (tFetching .fStaleRead false 0 [0x4241]) ∧
    InRx .fResetStale (tFetching .fResetStale false 0x4241 []) ∧
    InRx .fRearm (tFetching .fRearm false 0x4241 []) := by decide
theorem witness_GetcFetchesAReadyWord :
    let s := { tOne with answers := [0x10, 1, 0x44434241] }
    Registered s 0 0 ∧ s.refused = none ∧ s.resetPin = false ∧ s.mode = .run ∧ (s.port 0).rxc = 0 ∧
    (1 : Word).getLsbD s.cfg.srRxrdy = true ∧ (0x10 : Word).getLsbD s.cfg.srOverrun = true ∧
    (0 : Word).getLsbD s.cfg.srOverrun = false := by decide
theorem witness_GetcForcesAPartialWordOut :
    let s := { tOne with answers := [0x10, 0, 1, 0x4241] }
    Registered s 0 0 ∧ s.refused = none ∧ s.resetPin = false ∧ s.mode = .run ∧ (s.port 0).rxc = 0 ∧ (0 : Word).getLsbD s.cfg.srRxrdy = false ∧
    (1 : Word) &&& s.cfg.rxoccMask ≠ 0 := by decide
theorem witness_GetcReportsAnEmptyQueue :
    let s := { tOne with answers := [0, 0, 0x40] }
    Registered s 0 0 ∧ s.refused = none ∧ s.resetPin = false ∧ s.mode = .run ∧ (s.port 0).rxc = 0 ∧ (0 : Word).getLsbD s.cfg.srRxrdy = false ∧
    (0x40 : Word) &&& s.cfg.rxoccMask = 0 := by decide
theorem witness_WaitingGetcRetriesWithoutBound :
    let f : EmptyFetch := { overrun := 0xFFFFFFFF, ready := 0xFFFFFFFE, occupancy := 0xFFFFFFC0 }
    let g : EmptyFetch := { overrun := 0, ready := 0, occupancy := 0 }
    let s := tFetching .fOvrCheck true 0 (f.answers ++ g.answers ++ [1])
    InProgress .getChar 0 s ∧ (s.port 0).rxs = .fOvrCheck ∧ (s.port 0).rxwait = true ∧ f.ok s.cfg = true ∧ g.ok s.cfg = true ∧
    s.answers = [f, g].flatMap EmptyFetch.answers ++ [1] ∧ ([f, g].map (EmptyFetch.steps s.cfg)).sum = 7 := by decide
theorem witness_AcceptedRequestsKeepTheirFrame :
    (nextOf (exec (.init 1 0x2000 0) tOne)).isSome = true ∧ (nextOf (exec (.putc 0 0x0A) tOne)).isSome = true ∧
    (nextOf (exec (.getc 0 true) tOne)).isSome = true ∧ (nextOf (exec (.write 0 0x8000 4) (tMem tBuf))).isSome = true ∧
    (nextOf (exec (.lookup 0) tOne)).isSome = true := by decide
theorem witness_OnlyTheServedRequestWrites :
    (tWriting .packAndDrain .pack 0 0 0 tBuf).resetPin = false ∧
    (nextOf (step (tWriting .packAndDrain .pack 0 0 0 tBuf))).isSome = true ∧
    (nextOf (step (tFetching .fRead true 0 [0x45]))).isSome = true ∧
    (nextOf (step { tFatal with resetPin := true })).isSome = true := by decide
theorem witness_EachRegisterReadTakesOneDraw :
    (nextOf (step (tFetching .fRead true 0 [0x45]))).map (fun t => (t.trace.length, t.draws, t.answers)) =
      some (2, 1, []) ∧
    (nextOf (step (tFetching .fOvrClear true 0 [0x45]))).map (fun t => (t.trace.length, t.draws, t.answers)) =
      some (1, 0, [0x45]) := by decide
theorem witness_StepsAccessOnlyWhatTheirRequestMay :
    ControlInv (tWriting .packAndDrain .pack 0 0 0 tBuf) ∧ ControlInv (tFetching .fRead true 0 [0x45]) ∧
    ControlInv (tRequest 0x00000100 0x2000 0 tOne) ∧
    accepted (tRequest 0x00000100 0x2000 0 tOne) = some (.init 1 0x2000 0) ∧
    (nextOf (step (tRequest 0x00000100 0x2000 0 tOne))).isSome = true ∧
    servedBuffer (tWriting .packAndDrain .pack 0 0 0 tBuf) = some (0x8000, 4) ∧
    servedBuffer (tRequest 0x00000003 0x8000 4 (tMem tBuf)) = some (0x8000, 4) := by decide
theorem witness_CriticalSectionEventsMarkItsEnds :
    ControlInv (tPutting .criticalWrite .none 0x41 0 0) ∧ ControlInv (tPutting .packAndDrain .push 0x41 0 1) ∧
    (nextOf (step (tPutting .criticalWrite .none 0x41 0 0))).map (·.trace) =
      some ([] ++ [.critEnter 0, .wr 0x1054 1, .wr 0x1048 0x60]) ∧
    (nextOf (step (tPutting .packAndDrain .push 0x41 0 1))).map (·.trace) =
      some ([] ++ [.wr 0x104C 0, .critExit 0]) := by decide
theorem witness_ClientMemoryChangesOnlyInTheBuffer_store :
    Inv { tOne with client := [.store 5 1] } ∧
    (nextOf (step { tOne with client := [.store 5 1] })).map (·.mem.read 5) = some 1 ∧ tOne.mem.read 5 ≠ 1 :=
  ⟨inv_of (by decide) (by decide) (by decide) (by decide) (by decide) (by decide) (by decide), by decide⟩
theorem witness_ClientMemoryChangesOnlyInTheBuffer_pack :
    Inv (tWriting .packAndDrain .pack 0 0 0 tBuf) ∧
    (nextOf (step (tWriting .packAndDrain .pack 0 0 0 tBuf))).map (·.mem.read 0x8002) = some 0x80 ∧
    tBuf.read 0x8002 ≠ 0x80 := ⟨inv_of (by decide) (by decide) (by decide) (by decide) (by decide) (by decide) (by decide), by decide⟩
theorem witness_RegisterAddressesAreAlignedAndDistinct : tFull.cfg.wf = true ∧ RegistryInv tFull := by decide
theorem witness_StepsKeepMemoryCanonical :
    MemInv (tWriting .packAndDrain .pack 0 0 0 tBuf) ∧
    (nextOf (step (tWriting .packAndDrain .pack 0 0 0 tBuf))).isSome = true := by decide
theorem witness_StepsKeepTheRegistry :
    RegistryInv (tRequest 0x00000100 0x2000 0 tOne) ∧
    (nextOf (step (tRequest 0x00000100 0x2000 0 tOne))).isSome = true := by decide
theorem witness_StepsKeepControl :
    ControlInv (tPutting .packAndDrain .restore 0x80 1 1) ∧
    (nextOf (step (tPutting .packAndDrain .restore 0x80 1 1))).isSome = true := by decide
theorem witness_StepsKeepTheInvariant :
    Inv (tWriting .packAndDrain .pack 0 0 0 tBuf) ∧
    (nextOf (step (tWriting .packAndDrain .pack 0 0 0 tBuf))).isSome = true := ⟨inv_of (by decide) (by decide) (by decide) (by decide) (by decide) (by decide) (by decide), by decide⟩
theorem witness_EveryControlledStateHasARule :
    ControlInv tFatal ∧ tFatal.refused = none ∧ ControlInv (tFetching .fRearm true 0x45 []) ∧
    (tFetching .fRearm true 0x45 []).mode = .run ∧
    ControlInv { tOne with refused := some .initIdNotNext, active := some (.init, 2) } := by decide

end Sys2Proof.Tests
end

section
/-! 10_state.md: the reset state, and which registers a step may write (R32, R38). -/

namespace Sys2Proof.Machine

/-- Settles O12: each per-port table of the reset state holds one value for every port. -/
theorem resetStateHoldsTheSpecValues : Obligations.ResetStateHoldsTheSpecValues :=
  ⟨rfl, PerPort.get_all 0, rfl, rfl, rfl, rfl, PerPort.get_all PortState.reset⟩

/-! ### Changes at one port -/

/-- Of the registry and the port registers, `t` differs from `s` at most at port `p`, and there only as `same` allows. -/
structure ChangesOnlyAt (same : PortState → PortState → Prop) (p : Port) (s t : State) : Prop where
  nports : t.nports = s.nports
  base : t.base = s.base
  other : ∀ r : Port, r ≠ p → t.port r = s.port r
  own : same (t.port p) (s.port p)

theorem port_congr {s t : State} (h : t.ports = s.ports) (r : Port) : t.port r = s.port r :=
  congrArg (PerPort.get · r) h

/-- An operation that touches neither the registry nor the port registers adds no change. -/
theorem ChangesOnlyAt.of_same_ports {same : PortState → PortState → Prop} {p : Port} {s t u : State}
    (h : ChangesOnlyAt same p s t) (hn : u.nports = t.nports) (hb : u.base = t.base) (hp : u.ports = t.ports) :
    ChangesOnlyAt same p s u :=
  ⟨hn.trans h.nports, hb.trans h.base, fun r hr => (port_congr hp r).trans (h.other r hr), port_congr hp p ▸ h.own⟩

theorem ChangesOnlyAt.record {same : PortState → PortState → Prop} {p : Port} {s t : State}
    (h : ChangesOnlyAt same p s t) (e : Event) : ChangesOnlyAt same p s (record e t) :=
  h.of_same_ports rfl rfl rfl

theorem ChangesOnlyAt.setPort {same : PortState → PortState → Prop} {p : Port} {s t : State} {q : PortState}
    (h : ChangesOnlyAt same p s t) (hq : same q (s.port p)) : ChangesOnlyAt same p s (t.setPort p q) where
  nports := h.nports
  base := h.base
  other r hr := (setPort_port_ne t q hr).trans (h.other r hr)
  own := (setPort_port_self t p q).symm ▸ hq

theorem ChangesOnlyAt.port_eq_or {same : PortState → PortState → Prop} {p : Port} {s t : State}
    (h : ChangesOnlyAt same p s t) (r : Port) : t.port r = s.port r ∨ r = p :=
  or_iff_not_imp_right.2 (h.other r)

theorem ChangesOnlyAt.same_port {same : PortState → PortState → Prop} {p : Port} {s t : State}
    (h : ChangesOnlyAt same p s t) (hrefl : ∀ q, same q q) (r : Port) : same (t.port r) (s.port r) := by
  obtain hr | rfl := h.port_eq_or r
  · exact hr ▸ hrefl _
  · exact h.own

/-- The changes of the transmit rules of port `p`. -/
abbrev TxChangesOnlyAt : Port → State → State → Prop := ChangesOnlyAt SameRx

/-- The changes of the receive rules of port `p`. -/
abbrev RxChangesOnlyAt : Port → State → State → Prop := ChangesOnlyAt SameTx

theorem TxChangesOnlyAt.refl (p : Port) (s : State) : TxChangesOnlyAt p s s := ⟨rfl, rfl, fun _ _ => rfl, rfl⟩

theorem RxChangesOnlyAt.refl (p : Port) (s : State) : RxChangesOnlyAt p s s := ⟨rfl, rfl, fun _ _ => rfl, rfl⟩

/-! ### Transmit rules -/

/-- A pass over the source of port `p` writes at most its staging byte. -/
theorem SourceOnly.txChangesOnlyAt {p : Port} {s t : State} (h : SourceOnly p s t) : TxChangesOnlyAt p s t :=
  ⟨h.nports, h.base, h.other, by rw [h.own]; rfl⟩

theorem setSub_changesOnlyAt {p : Port} {s t : State} (h : TxChangesOnlyAt p s t) (sub : TxSub) :
    TxChangesOnlyAt p s (setSub p sub t) :=
  h.setPort h.own

theorem toCriticalWrite_changesOnlyAt {p : Port} {s t : State} (h : TxChangesOnlyAt p s t) :
    TxChangesOnlyAt p s (toCriticalWrite p t) :=
  h.setPort h.own

theorem txStep_changesOnlyAt {p : Port} {s t : State} (h : txStep p s = .next t) : TxChangesOnlyAt p s t := by
  have hread (x : Reg) : TxChangesOnlyAt p s (regRead p x s) := (TxChangesOnlyAt.refl p s).of_same_ports rfl rfl rfl
  have hwrite (x : Reg) (v : Word) : TxChangesOnlyAt p s (regWrite p x v s) := (TxChangesOnlyAt.refl p s).record _
  obtain ⟨-, -, rfl⟩ | ⟨-, -, rfl⟩ | ⟨-, -, rfl⟩ | ⟨-, -, rfl⟩ | ⟨-, -, rfl⟩ | ⟨-, -, rfl⟩ | ⟨-, -, rfl⟩ :=
    txStep_cases h
  · unfold txCheckEmpty
    split
    · exact toCriticalWrite_changesOnlyAt (hread .sr)
    · exact setSub_changesOnlyAt (hread .sr) _
  · unfold txPollTxready
    split
    · exact toCriticalWrite_changesOnlyAt (hread .isr)
    · exact hread .isr
  · refine ((TxChangesOnlyAt.refl p s).of_same_ports ?_ ?_ ?_).setPort ?_ <;> rfl
  · have hpack :=
      (sourceOnly_packFrom p (nslots (s.port p).txc (s.port p).txi) 0 0 (s.port p).txcur s).txChangesOnlyAt
    exact hpack.setPort hpack.own
  · unfold txPollTxrdy
    split
    · exact setSub_changesOnlyAt (hread .sr) _
    · exact hread .sr
  · have hidx := (hwrite .tf (s.port p).txword).setPort (q := { s.port p with txi := (s.port p).txi + 1 }) rfl
    simp only [txPush]
    split
    · exact setSub_changesOnlyAt hidx _
    · exact setSub_changesOnlyAt (hidx.record (.critExit p)) _
  · have hrestore := (sourceOnly_restoreFrom p (s.port p).txlen 0 s).txChangesOnlyAt
    refine ChangesOnlyAt.of_same_ports (hrestore.setPort ?_) rfl rfl rfl
    exact hrestore.own

/-- A transmit that starts, or is refused, changes transmit registers of its port. -/
theorem txRun_changesOnlyAt {p : Port} {s t u : State} (hs : TxChangesOnlyAt p s t) (h : txRun p t = .next u) :
    TxChangesOnlyAt p s u := by
  have hcount : TxChangesOnlyAt p s (countPass p (t.port p).txlen t).2 := by
    rw [countPass_eq]
    exact hs.of_same_ports rfl rfl rfl
  simp only [txRun] at h
  split at h <;> cases h
  · exact hcount.of_same_ports rfl rfl rfl
  · exact hcount.setPort hcount.own

/-! ### Receive rules -/

theorem extractByte_changesOnlyAt {p : Port} {s t : State} (h : RxChangesOnlyAt p s t) :
    RxChangesOnlyAt p s (extractByte p t) :=
  (h.setPort (q := { t.port p with rxc := unpackRest (t.port p).rxc }) h.own).of_same_ports rfl rfl rfl

theorem setRxs_changesOnlyAt {p : Port} {s t : State} (h : RxChangesOnlyAt p s t) (x : RxState) :
    RxChangesOnlyAt p s (setRxs p x t) :=
  h.setPort h.own

theorem rxReady_changesOnlyAt {p : Port} {s t : State} (h : RxChangesOnlyAt p s t) :
    RxChangesOnlyAt p s (rxReady p t) :=
  extractByte_changesOnlyAt (h.setPort h.own)

theorem rxNotReady_changesOnlyAt {p : Port} {s t : State} (h : RxChangesOnlyAt p s t) :
    RxChangesOnlyAt p s (rxNotReady p t) := by
  unfold rxNotReady
  split
  · exact setRxs_changesOnlyAt h _
  · exact (setRxs_changesOnlyAt h _).of_same_ports rfl rfl rfl

theorem rxStep_changesOnlyAt {p : Port} {s t : State} (h : rxStep p s = .next t) : RxChangesOnlyAt p s t := by
  have hread (x : Reg) : RxChangesOnlyAt p s (regRead p x s) := (RxChangesOnlyAt.refl p s).of_same_ports rfl rfl rfl
  have hwrite (x : Reg) (v : Word) : RxChangesOnlyAt p s (regWrite p x v s) := (RxChangesOnlyAt.refl p s).record _
  have hword : RxChangesOnlyAt p s (rxReadWord p s) := (hread .rf).setPort rfl
  obtain ⟨-, rfl⟩ | ⟨-, rfl⟩ | ⟨-, rfl⟩ | ⟨-, rfl⟩ | ⟨-, rfl⟩ | ⟨-, rfl⟩ | ⟨-, rfl⟩ | ⟨-, rfl⟩ | ⟨-, rfl⟩ :=
    rxStep_cases h
  · exact setRxs_changesOnlyAt (hread .sr) _
  · exact setRxs_changesOnlyAt (hwrite .cr _) _
  · exact setRxs_changesOnlyAt (hread .sr) _
  · exact rxReady_changesOnlyAt hword
  · unfold rxOccCheck
    split
    · exact setRxs_changesOnlyAt (hread .rxocc) _
    · exact rxNotReady_changesOnlyAt (hread .rxocc)
  · exact setRxs_changesOnlyAt (hwrite .cr _) _
  · exact setRxs_changesOnlyAt hword _
  · exact setRxs_changesOnlyAt (hwrite .cr _) _
  · exact rxReady_changesOnlyAt (hwrite .rxwm _)

/-! ### What a request may write -/

/-- 10_state.md R32 for one request: transmit registers only of its port and for PUT_CHAR or WRITE, receive registers
only of its port and for GET_CHAR, the registry only for INIT. -/
structure WritesOnlyAs (op : Op) (port : PortField) (s t : State) : Prop where
  tx : ∀ r : Port, SameTx (t.port r) (s.port r) ∨ r.val = port.toNat ∧ (op = .putChar ∨ op = .write)
  rx : ∀ r : Port, SameRx (t.port r) (s.port r) ∨ r.val = port.toNat ∧ op = .getChar
  registry : (t.nports = s.nports ∧ t.base = s.base) ∨ op = .init

/-- Where no port register changes, only the registry is left to ask about. -/
theorem WritesOnlyAs.of_same_ports {op : Op} {port : PortField} {s t : State} (hp : t.ports = s.ports)
    (hreg : (t.nports = s.nports ∧ t.base = s.base) ∨ op = .init) : WritesOnlyAs op port s t :=
  ⟨fun r => .inl (port_congr hp r ▸ rfl), fun r => .inl (port_congr hp r ▸ rfl), hreg⟩

theorem TxChangesOnlyAt.writesOnlyAs {op : Op} {port : PortField} {p : Port} {s t : State}
    (h : TxChangesOnlyAt p s t) (hp : Registered s port p) (hop : op = .putChar ∨ op = .write) :
    WritesOnlyAs op port s t where
  tx r := (h.port_eq_or r).imp (fun (hr : t.port r = s.port r) => hr ▸ rfl) fun (hr : r = p) => ⟨hr ▸ hp.1.symm, hop⟩
  rx r := .inl (h.same_port (fun _ => rfl) r)
  registry := .inl ⟨h.nports, h.base⟩

theorem RxChangesOnlyAt.writesOnlyAs {port : PortField} {p : Port} {s t : State} (h : RxChangesOnlyAt p s t)
    (hp : Registered s port p) : WritesOnlyAs .getChar port s t where
  tx r := .inl (h.same_port (fun _ => rfl) r)
  rx r := (h.port_eq_or r).imp (fun (hr : t.port r = s.port r) => hr ▸ rfl) fun (hr : r = p) => ⟨hr ▸ hp.1.symm, rfl⟩
  registry := .inl ⟨h.nports, h.base⟩

theorem exec_writesOnlyAs {i : Instr} {s t : State} (h : exec i s = .next t) : WritesOnlyAs i.op i.port s t := by
  cases i with
  | init port uartBase clkBase =>
    simp only [exec, execInit] at h
    split_ifs at h <;> cases h <;> exact .of_same_ports rfl (.inr rfl)
  | putc port byte =>
    simp only [exec, execPutc] at h
    split at h
    · cases h
      exact .of_same_ports rfl (.inl ⟨rfl, rfl⟩)
    · next p hp =>
      have hstart := ((TxChangesOnlyAt.refl p s).of_same_ports (u := activate .putChar port s) rfl rfl rfl).setPort
        (q := { s.port p with txsrc := .stage, txstg := byte, txlen := 1 }) rfl
      exact (txRun_changesOnlyAt hstart h).writesOnlyAs (resolvePort_eq_some.1 hp) (.inl rfl)
  | getc port wait =>
    simp only [exec, execGetc] at h
    split at h
    · cases h
      exact .of_same_ports rfl (.inl ⟨rfl, rfl⟩)
    · next p hp =>
      have hact := (RxChangesOnlyAt.refl p s).of_same_ports (u := activate .getChar port s) rfl rfl rfl
      split at h <;> cases h
      · exact RxChangesOnlyAt.writesOnlyAs (hact.setPort rfl) (resolvePort_eq_some.1 hp)
      · exact RxChangesOnlyAt.writesOnlyAs (extractByte_changesOnlyAt hact) (resolvePort_eq_some.1 hp)
  | write port buf len =>
    simp only [exec, execWrite] at h
    split at h
    · cases h
      exact .of_same_ports rfl (.inl ⟨rfl, rfl⟩)
    · next p hp =>
      split_ifs at h
      · cases h
        exact .of_same_ports rfl (.inl ⟨rfl, rfl⟩)
      · cases h
        exact .of_same_ports rfl (.inl ⟨rfl, rfl⟩)
      · have hstart := ((TxChangesOnlyAt.refl p s).of_same_ports (u := activate .write port s) rfl rfl rfl).setPort
          (q := { s.port p with txsrc := .mem, txbuf := buf, txlen := len.toNat }) rfl
        exact (txRun_changesOnlyAt hstart h).writesOnlyAs (resolvePort_eq_some.1 hp) (.inr rfl)
  | lookup port =>
    simp only [exec, execLookup] at h
    split at h <;> cases h <;> exact .of_same_ports rfl (.inl ⟨rfl, rfl⟩)

/-- INIT is never in progress between steps, so the request in progress leaves the registry alone. -/
theorem advance_writesOnlyAs {op : Op} {port : PortField} {s t : State} (h : advance op port s = .next t) :
    op ≠ .init ∧ WritesOnlyAs op port s t := by
  obtain ⟨p, hp, ⟨hop, htx⟩ | ⟨rfl, hrx⟩⟩ := advance_cases h
  · refine ⟨?_, (txStep_changesOnlyAt htx).writesOnlyAs hp hop⟩
    rintro rfl
    simp at hop
  · exact ⟨by decide, (rxStep_changesOnlyAt hrx).writesOnlyAs hp⟩

/-- The registry and all port registers of `t` are those of `s`. -/
structure SameRegisters (s t : State) : Prop where
  nports : t.nports = s.nports
  base : t.base = s.base
  ports : t.ports = s.ports

/-- A free block's step leaves the registry and the port registers alone, or writes only as the request it accepts. -/
theorem takeClient_writes {s t : State} (ha : s.active = none) (h : takeClient s = .next t) :
    SameRegisters s t ∨ ∃ op port, served s = some (op, port) ∧ WritesOnlyAs op port s t := by
  obtain ⟨-, rfl⟩ | ⟨a, v, rest, -, rfl⟩ | ⟨r, rest, why, -, -, rfl⟩ | ⟨r, rest, i, hc, hd, he⟩ := takeClient_cases h
  · exact .inl ⟨rfl, rfl, rfl⟩
  · exact .inl ⟨rfl, rfl, rfl⟩
  · exact .inl ⟨rfl, rfl, rfl⟩
  · obtain ⟨htx, hrx, hreg⟩ := exec_writesOnlyAs he
    exact .inr ⟨i.op, i.port, by simp [served, accepted, ha, hc, hd], htx, hrx, hreg⟩

/-- A step that is no reset leaves the registry and the port registers alone, or writes only as the request it serves;
where that is an INIT, the step accepts it. -/
theorem step_writes {s t : State} (hr : s.resetPin = false) (h : step s = .next t) :
    SameRegisters s t ∨ ∃ op port, served s = some (op, port) ∧ (op = .init → s.active = none) ∧
      WritesOnlyAs op port s t := by
  obtain ⟨-, ⟨hpin, -⟩ | ⟨-, -, ha, htake⟩ | ⟨-, -, op, port, ha, hadv⟩⟩ := step_cases h
  · simp [hr] at hpin
  · obtain hsame | ⟨op, port, hserved, hw⟩ := takeClient_writes ha htake
    · exact .inl hsame
    · exact .inr ⟨op, port, hserved, fun _ => ha, hw⟩
  · obtain ⟨hop, hw⟩ := advance_writesOnlyAs hadv
    exact .inr ⟨op, port, by simp [served, ha], fun hinit => absurd hinit hop, hw⟩

/-- An asserted reset is the whole step. -/
theorem step_eq_resetBlock {s t : State} (hr : s.resetPin = true) (h : step s = .next t) : t = resetBlock s := by
  obtain ⟨-, ⟨-, rfl⟩ | ⟨hpin, -⟩ | ⟨hpin, -⟩⟩ := step_cases h
  · rfl
  · simp [hr] at hpin
  · simp [hr] at hpin

/-- Settles O45: every step that is no reset writes only as the request it serves. -/
theorem onlyTheServedRequestWrites : Obligations.OnlyTheServedRequestWrites := by
  intro s t h
  refine ⟨fun hr => ?_, fun hr => ?_⟩
  · obtain ⟨hn, hb, hp⟩ | ⟨op, port, hserved, hinit, htx, hrx, hreg⟩ := step_writes hr h
    · exact ⟨fun r => .inl (port_congr hp r ▸ rfl), fun r => .inl (port_congr hp r ▸ rfl), .inl ⟨hn, hb⟩⟩
    · exact ⟨fun r => (htx r).imp_right fun hw => ⟨op, port, hserved, hw⟩,
        fun r => (hrx r).imp_right fun hw => ⟨op, port, hserved, hw⟩,
        hreg.imp_right fun (ho : op = .init) => ⟨port, by rw [hserved, ho], hinit ho⟩⟩
  · rw [step_eq_resetBlock hr h]
    exact ⟨rfl, fun r => ⟨PerPort.get_all 0 r, resetBlock_port s r⟩⟩

end Sys2Proof.Machine
end

section
/-! 30_encoding.md: which command words are legal (R73, R77), what a legal request holds (R74, R75), and the answer to
an illegal one (R78). -/

namespace Sys2Proof

/-! ### Fields of a command word -/

/-- The fields of R71 cover a command word: two words with the same fields are one word. -/
theorem word_eq_iff_fields (v w : Word) :
    v = w ↔ CW.op v = CW.op w ∧ CW.wait v = CW.wait w ∧ CW.rsv0 v = CW.rsv0 w ∧ CW.port v = CW.port w ∧
      CW.byte v = CW.byte w ∧ CW.rsv1 v = CW.rsv1 w := by
  refine ⟨fun h => h ▸ ⟨rfl, rfl, rfl, rfl, rfl, rfl⟩, ?_⟩
  rintro ⟨hop, hwait, hrsv0, hport, hbyte, hrsv1⟩
  have bit {n start i : Nat} (h : v.extractLsb' start n = w.extractLsb' start n) (hi : i < n) :
      v.getLsbD (start + i) = w.getLsbD (start + i) := by
    simpa [BitVec.getLsbD_extractLsb', hi] using congrArg (·.getLsbD i) h
  refine BitVec.eq_of_getLsbD_eq fun k hk => ?_
  obtain h | rfl | h | h | h | h : k < 3 ∨ k = 3 ∨ (4 ≤ k ∧ k < 8) ∨ (8 ≤ k ∧ k < 16) ∨ (16 ≤ k ∧ k < 24) ∨ 24 ≤ k := by
    omega
  · simpa using bit hop h
  · exact hwait
  · simpa [h.1] using bit (i := k - 4) hrsv0 (by omega)
  · simpa [h.1] using bit (i := k - 8) hport (by omega)
  · simpa [h.1] using bit (i := k - 16) hbyte (by omega)
  · simpa [h] using bit (i := k - 24) hrsv1 (by omega)

/-- Masking a command word masks each field. -/
theorem fields_and (v w : Word) :
    CW.op (v &&& w) = CW.op v &&& CW.op w ∧ CW.wait (v &&& w) = (CW.wait v && CW.wait w) ∧
    CW.rsv0 (v &&& w) = CW.rsv0 v &&& CW.rsv0 w ∧ CW.port (v &&& w) = CW.port v &&& CW.port w ∧
    CW.byte (v &&& w) = CW.byte v &&& CW.byte w ∧ CW.rsv1 (v &&& w) = CW.rsv1 v &&& CW.rsv1 w := by
  simp [CW.op, CW.wait, CW.rsv0, CW.port, CW.byte, CW.rsv1, BitVec.extractLsb'_and]

theorem port_toNat (cw : Word) : (CW.port cw).toNat = cw.toNat / 2 ^ 8 % 2 ^ 8 := by
  simp only [CW.port, BitVec.extractLsb'_toNat, Nat.shiftRight_eq_div_pow]

theorem byte_toNat (cw : Word) : (CW.byte cw).toNat = cw.toNat / 2 ^ 16 % 2 ^ 8 := by
  simp only [CW.byte, BitVec.extractLsb'_toNat, Nat.shiftRight_eq_div_pow]

theorem wait_eq_true_iff (cw : Word) : CW.wait cw = true ↔ cw.toNat / 2 ^ 3 % 2 = 1 := by
  simp [CW.wait, BitVec.getLsbD, Nat.testBit_eq_decide_div_mod_eq]

/-! ### Legal command words -/

theorem opOfBits_eq_some_iff (b : BitVec 3) (op : Op) : opOfBits b = some op ↔ b = opBits op := by
  revert b
  cases op <;> decide

/-- The opcode bits are those of an operation, or reserved (R72). -/
theorem exists_opBits_or_reserved (b : BitVec 3) : (∃ op, b = opBits op) ∨ b = 5 ∨ b = 6 ∨ b = 7 := by
  cases hb : opOfBits b with
  | some op => exact .inl ⟨op, (opOfBits_eq_some_iff b op).1 hb⟩
  | none => exact .inr (by revert b; decide)

theorem opBits_injective : Function.Injective opBits := fun x y h =>
  Option.some.inj (((opOfBits_eq_some_iff _ x).2 rfl).symm.trans ((opOfBits_eq_some_iff _ y).2 h))

/-- The fields of a legal command word of operation `op` (R77). -/
structure LegalFields (cw : Word) (op : Op) : Prop where
  opcode : CW.op cw = opBits op
  rsv0 : CW.rsv0 cw = 0
  rsv1 : CW.rsv1 cw = 0
  wait : CW.wait cw = true → op = .getChar
  byte : CW.byte cw ≠ 0 → op = .putChar

theorem LegalFields.iff_eq {cw : Word} {x y : Op} (h : LegalFields cw x) : LegalFields cw y ↔ y = x :=
  ⟨fun hy => opBits_injective (hy.opcode.symm.trans h.opcode), fun hy => hy ▸ h⟩

/-- What the decoder reads of a legal request, and when it reads anything. -/
theorem decode_eq_legal_iff {addrW : Nat} {r : Request} {i : Instr} :
    decode addrW r = .legal i ↔ ∃ op, LegalFields r.cw op ∧ i = fieldsOf addrW r op := by
  constructor
  · intro h
    unfold decode at h
    split at h
    · cases h
    · next op hop =>
      split_ifs at h with hrsv hwait hbyte
      cases h
      rw [not_or, not_not, not_not] at hrsv
      exact ⟨op, ⟨(opOfBits_eq_some_iff _ _).1 hop, hrsv.1, hrsv.2, fun hw => by_contra fun hne => hwait ⟨hw, hne⟩,
        fun hb => by_contra fun hne => hbyte ⟨hb, hne⟩⟩, rfl⟩
  · rintro ⟨op, ⟨hop, hrsv0, hrsv1, hwait, hbyte⟩, rfl⟩
    have hop : opOfBits (CW.op r.cw) = some op := (opOfBits_eq_some_iff _ _).2 hop
    have hrsv : ¬(CW.rsv0 r.cw ≠ 0 ∨ CW.rsv1 r.cw ≠ 0) := fun h => h.elim (absurd hrsv0) (absurd hrsv1)
    simp only [decode, hop]
    rw [if_neg hrsv, if_neg fun h => h.2 (hwait h.1), if_neg fun h => h.2 (hbyte h.1)]

theorem exists_decode_legal_iff (addrW : Nat) (r : Request) :
    (∃ i, decode addrW r = .legal i) ↔ ∃ op, LegalFields r.cw op := by
  simp only [decode_eq_legal_iff]
  exact ⟨fun ⟨_, op, h, _⟩ => ⟨op, h⟩, fun ⟨op, h⟩ => ⟨_, op, h, rfl⟩⟩

/-- The decoder is total (R79): a request is illegal exactly when it is not legal. -/
theorem exists_decode_illegal_iff (addrW : Nat) (r : Request) :
    (∃ why, decode addrW r = .illegal why) ↔ ¬∃ i, decode addrW r = .legal i := by
  cases decode addrW r <;> simp

/-- No operation has legal fields exactly in the four cases of R77. -/
theorem not_exists_legalFields_iff (cw : Word) :
    (¬∃ op, LegalFields cw op) ↔
      (CW.op cw = 5 ∨ CW.op cw = 6 ∨ CW.op cw = 7) ∨ (CW.rsv0 cw ≠ 0 ∨ CW.rsv1 cw ≠ 0) ∨
      (CW.wait cw = true ∧ CW.op cw ≠ 2) ∨ (CW.byte cw ≠ 0 ∧ CW.op cw ≠ 1) := by
  constructor
  · intro hnone
    by_contra hcases
    simp only [not_or, not_and, not_not] at hcases
    obtain ⟨⟨h5, h6, h7⟩, ⟨hrsv0, hrsv1⟩, hwait, hbyte⟩ := hcases
    obtain ⟨op, hop⟩ | h | h | h := exists_opBits_or_reserved (CW.op cw)
    · exact hnone ⟨op, hop, hrsv0, hrsv1, fun hw => opBits_injective (hop.symm.trans (hwait hw)),
        fun hb => opBits_injective (hop.symm.trans (hbyte hb))⟩
    · exact h5 h
    · exact h6 h
    · exact h7 h
  · rintro hcases ⟨op, hop, hrsv0, hrsv1, hwait, hbyte⟩
    obtain h | (h | h) | ⟨h, hne⟩ | ⟨h, hne⟩ := hcases
    · rw [hop] at h
      revert h
      cases op <;> decide
    · exact h hrsv0
    · exact h hrsv1
    · exact hne (hop.trans (congrArg opBits (hwait h)))
    · exact hne (hop.trans (congrArg opBits (hbyte h)))

/-! ### The match and mask table -/

/-- The masks of R73: OP and the reserved fields are compared, PORT is not, WAIT is free for GET_CHAR only and BYTE for
PUT_CHAR only. -/
theorem opTable_mask_fields : ∀ row ∈ opTable,
    CW.op row.mask = BitVec.allOnes 3 ∧ CW.wait row.mask = decide (row.op ≠ .getChar) ∧
    CW.rsv0 row.mask = BitVec.allOnes 4 ∧ CW.port row.mask = 0#8 ∧
    CW.byte row.mask = (if row.op = .putChar then 0 else BitVec.allOnes 8) ∧ CW.rsv1 row.mask = BitVec.allOnes 8 := by
  decide

/-- The patterns of R73 hold the opcode and zeros. -/
theorem opTable_pattern_fields : ∀ row ∈ opTable,
    CW.op row.pattern = opBits row.op ∧ CW.wait row.pattern = false ∧ CW.rsv0 row.pattern = 0 ∧
    CW.port row.pattern = 0#8 ∧ CW.byte row.pattern = 0 ∧ CW.rsv1 row.pattern = 0 := by
  decide

/-- A row of the table matches the legal command words of its operation. -/
theorem hits_iff_legalFields {row : OpRow} (hrow : row ∈ opTable) (cw : Word) :
    row.hits cw = true ↔ LegalFields cw row.op := by
  obtain ⟨mop, mwait, mrsv0, mport, mbyte, mrsv1⟩ := opTable_mask_fields row hrow
  obtain ⟨pop, pwait, prsv0, pport, pbyte, prsv1⟩ := opTable_pattern_fields row hrow
  obtain ⟨aop, await, arsv0, aport, abyte, arsv1⟩ := fields_and cw row.mask
  have hwait : (CW.wait cw && decide (row.op ≠ .getChar)) = false ↔ (CW.wait cw = true → row.op = .getChar) := by
    simp [imp_iff_not_or]
  have hbyte : CW.byte cw &&& (if row.op = .putChar then 0 else BitVec.allOnes 8) = 0 ↔
      (CW.byte cw ≠ 0 → row.op = .putChar) := by
    split_ifs with h
    · simp [h]
    · rw [BitVec.and_allOnes, imp_iff_not h, not_not]
  rw [OpRow.hits, beq_iff_eq, word_eq_iff_fields, aop, await, arsv0, aport, abyte, arsv1, mop, mwait, mrsv0, mport,
    mbyte, mrsv1, pop, pwait, prsv0, pport, pbyte, prsv1, hwait, hbyte]
  simp only [BitVec.and_allOnes, BitVec.and_zero, true_and]
  exact ⟨fun ⟨hop, hw, h0, hb, h1⟩ => ⟨hop, h0, h1, hw, hb⟩, fun ⟨hop, h0, h1, hw, hb⟩ => ⟨hop, hw, h0, hb, h1⟩⟩

/-- The table has one row per operation. -/
theorem length_filter_opTable_op (op : Op) : (opTable.filter fun row => row.op = op).length = 1 := by
  cases op <;> rfl

/-- A command word matches exactly one row when its fields are legal for some operation. -/
theorem length_filter_hits_eq_one_iff (cw : Word) :
    (opTable.filter fun row => row.hits cw).length = 1 ↔ ∃ op, LegalFields cw op := by
  constructor
  · intro h
    obtain ⟨row, hrow⟩ := List.exists_mem_of_length_pos (h ▸ Nat.one_pos)
    obtain ⟨hmem, hhits⟩ := List.mem_filter.1 hrow
    exact ⟨row.op, (hits_iff_legalFields hmem cw).1 hhits⟩
  · rintro ⟨op, hop⟩
    have hcongr : (opTable.filter fun row => row.hits cw) = opTable.filter fun row => row.op = op :=
      List.filter_congr fun row hrow => by
        rw [Bool.eq_iff_iff, hits_iff_legalFields hrow, hop.iff_eq, decide_eq_true_iff]
    rw [hcongr, length_filter_opTable_op]

/-- Settles O3: legal requests, matched rows and the four cases are all characterised by the fields of the command
word alone. -/
theorem legalWordsMatchExactlyOneRow : Obligations.LegalWordsMatchExactlyOneRow := by
  intro addrW r
  refine ⟨?_, ?_, fun a b => ?_⟩
  · rw [exists_decode_legal_iff, length_filter_hits_eq_one_iff]
  · rw [exists_decode_illegal_iff, exists_decode_legal_iff, not_exists_legalFields_iff]
  · rw [exists_decode_legal_iff, exists_decode_legal_iff]

/-! ### Operands of a legal request -/

@[simp] theorem fieldsOf_op (addrW : Nat) (r : Request) (op : Op) : (fieldsOf addrW r op).op = op := by
  cases op <;> rfl

@[simp] theorem fieldsOf_port (addrW : Nat) (r : Request) (op : Op) : (fieldsOf addrW r op).port = CW.port r.cw := by
  cases op <;> rfl

/-- A length is the two's complement reading of its 32 bits (R74). -/
theorem signedLen_ofNat (b : Nat) :
    Machine.signedLen (BitVec.ofNat 32 b) =
      if b % 2 ^ 32 < 2 ^ 31 then (b % 2 ^ 32 : Int) else (b % 2 ^ 32 : Int) - 2 ^ 32 := by
  rw [Machine.signedLen, BitVec.toInt_eq_toNat_cond, BitVec.toNat_ofNat]
  split_ifs <;> omega

/-- Settles O4: the instruction is `fieldsOf` the request, and operands that fit the address width lose nothing. -/
theorem operandsAreTheRequestFields : Obligations.OperandsAreTheRequestFields := by
  intro addrW r i _ ha hb hd
  obtain ⟨op, -, rfl⟩ := decode_eq_legal_iff.1 hd
  have ha : r.a % 2 ^ addrW = r.a := Nat.mod_eq_of_lt ha
  have hb : r.b % 2 ^ addrW = r.b := Nat.mod_eq_of_lt hb
  rw [fieldsOf_op, fieldsOf_port]
  refine ⟨port_toNat r.cw, ?_, ?_, ?_, ?_, ?_⟩
  · rintro rfl
    rw [fieldsOf, ha, hb]
  · rintro rfl
    exact ⟨CW.byte r.cw, rfl, byte_toNat r.cw⟩
  · rintro rfl
    exact ⟨CW.wait r.cw, rfl, wait_eq_true_iff r.cw⟩
  · rintro rfl
    rw [fieldsOf, ha, hb]
    exact ⟨BitVec.ofNat 32 r.b, rfl, BitVec.toNat_ofNat _ _, signedLen_ofNat r.b⟩
  · rintro rfl
    rfl

end Sys2Proof

namespace Sys2Proof.Machine

/-! ### The answer to an illegal request -/

theorem accept_illegal {s : State} {r : Request} {why : Illegal} (h : decode s.cfg.addrW r = .illegal why) :
    accept r s = .next (respond .errIllegal 0 s) := by
  simp only [accept, h]

/-- A response of a free block changes the response registers and is recorded; there is no request to end. -/
theorem respond_of_free {s : State} (h : s.active = none) (st : Status) (d : Nat) :
    respond st d s =
      { s with rspStatus := statusCode st, rspData := d, trace := s.trace ++ [.rsp (statusCode st) d] } := by
  simp only [respond, record, h]

/-- Settles O6: the illegal word is answered by a response alone, and the block that accepts it is free. -/
theorem illegalWordIsAnsweredErrIllegal : Obligations.IllegalWordIsAnsweredErrIllegal := by
  rintro s r why ⟨-, -, -, hactive⟩ hd
  rw [accept_illegal hd, respond_of_free hactive]
  rfl

end Sys2Proof.Machine
end

section
/-! 40_registry.md: the port check (R101), INIT on a registry that is not full (R102, R104, R107) and LOOKUP (R106). -/

namespace Sys2Proof.Machine

/-! ### The end of a request -/

/-- A response in the step that accepts its request leaves `ACTIVE` at `NONE`, whatever the request was. -/
theorem respond_activate (op : Op) (port : PortField) (s : State) (st : Status) (d : Nat) :
    respond st d (activate op port s) =
      { s with
        active := none, rspStatus := statusCode st, rspData := d
        trace := s.trace ++ [.rsp (statusCode st) d] } := rfl

/-! ### The port check -/

@[simp] theorem resolvePort_activate (op : Op) (port q : PortField) (s : State) :
    resolvePort port (activate op q s) = resolvePort port s :=
  resolvePort_congr (activate_nports s op q) port

/-- The port check comes before everything else a request does (R101). -/
theorem exec_unregistered {i : Instr} {s : State} (hi : i.op ≠ .init) (h : s.nports.val ≤ i.port.toNat) :
    exec i s = .next (respond .errUninit 0 (activate i.op i.port s)) := by
  cases i with
  | init port uartBase clkBase => exact absurd rfl hi
  | putc port byte => simp only [exec, execPutc, resolvePort_activate, resolvePort_unregistered (port := port) h]; rfl
  | getc port wait => simp only [exec, execGetc, resolvePort_activate, resolvePort_unregistered (port := port) h]; rfl
  | write port buf len => simp only [exec, execWrite, resolvePort_activate, resolvePort_unregistered (port := port) h]; rfl
  | lookup port => simp only [exec, execLookup, resolvePort_activate, resolvePort_unregistered (port := port) h]; rfl

/-- Settles O17: the port check answers in the step that accepts the request. -/
theorem unregisteredPortIsAnsweredErrUninit : Obligations.UnregisteredPortIsAnsweredErrUninit := by
  intro s i hi h
  rw [exec_unregistered hi h, respond_activate]
  rfl

/-! ### LOOKUP -/

theorem exec_lookup_registered {s : State} {port : PortField} {p : Port} (h : Registered s port p) :
    exec (.lookup port) s = .next (respond .success (s.base.get p) (activate .lookup port s)) := by
  simp only [exec, execLookup, resolvePort_activate, resolvePort_registered h, activate_base]

/-- Settles O16: a registered port is answered by its base, any other by the port check. -/
theorem lookupRespondsTheBase : Obligations.LookupRespondsTheBase := by
  intro s port
  refine ⟨fun p hp => ?_, fun h => unregisteredPortIsAnsweredErrUninit s (.lookup port) Op.noConfusion h⟩
  rw [exec_lookup_registered hp, respond_activate]
  rfl

/-! ### INIT -/

/-- A misaligned base is refused before the id is looked at (R102). -/
theorem exec_init_misaligned {uartBase : Nat} (h : uartBase % 4 ≠ 0) (port : PortField) (clkBase : Nat) (s : State) :
    exec (.init port uartBase clkBase) s = .next (refuse .initBaseMisaligned (activate .init port s)) :=
  if_pos h

/-- While the registry is not full, an id that is not the next one is refused (R107). -/
theorem exec_init_not_next {uartBase : Nat} {port : PortField} {s : State} (halign : uartBase % 4 = 0)
    (hfree : s.nports.val < nPorts) (hid : port.toNat ≠ s.nports.val) (clkBase : Nat) :
    exec (.init port uartBase clkBase) s = .next (refuse .initIdNotNext (activate .init port s)) :=
  (if_neg (not_not.2 halign)).trans (if_pos ⟨hfree, hid⟩)

/-- With an aligned base and the next id, INIT resets the port and then registers it (R104). -/
theorem exec_init_next {uartBase : Nat} {port : PortField} {s : State} (halign : uartBase % 4 = 0)
    (hfree : s.nports.val < nPorts) (hid : port.toNat = s.nports.val) (clkBase : Nat) :
    exec (.init port uartBase clkBase) s =
      .next (respond .success s.nports.val (registerPort uartBase (initResets uartBase (activate .init port s)) hfree)) :=
  (if_neg (not_not.2 halign)).trans ((if_neg fun h => h.2 hid).trans (dif_pos hfree))

/-- Settles O13: the two resets, then the entry, then the response. -/
theorem initRegistersTheNextPort : Obligations.InitRegistersTheNextPort := by
  intro s port uartBase clkBase hfree halign hid
  rw [exec_init_next halign hfree hid]
  simp only [respond, record, registerPort, initResets_trace, List.append_assoc, List.singleton_append]
  rfl

/-- Settles O15: each refusal marks the state that accepted the request. -/
theorem initRefusesABadBaseOrId : Obligations.InitRefusesABadBaseOrId := by
  intro s port uartBase clkBase
  exact ⟨fun hbad => ⟨_, exec_init_misaligned hbad port clkBase s, rfl⟩,
    fun halign hfree hid => ⟨_, exec_init_not_next halign hfree hid clkBase, rfl⟩⟩

end Sys2Proof.Machine
end

section
/-! 41_packing.md: the lanes of a word (R121, R122), its slots (R125), and the restore pass that ends a transmit (R127;
42_transmit.md R150). -/

namespace Sys2Proof.Machine

/-! ### Byte lanes -/

theorem laneGet_toNat (w : Word) (j : Nat) : (laneGet w j).toNat = w.toNat / 2 ^ (8 * j) % 2 ^ 8 := by
  simp only [laneGet, BitVec.extractLsb'_toNat, Nat.shiftRight_eq_div_pow]

theorem laneGet_getLsbD (w : Word) (j : Nat) {i : Nat} (hi : i < 8) :
    (laneGet w j).getLsbD i = w.getLsbD (8 * j + i) := by
  simp [laneGet, hi]

/-- The mask of `lane_put` covers one lane. -/
theorem laneMask_getLsbD (i : Nat) : (0xFF#32).getLsbD i = decide (i < 8) := by
  rw [show (0xFF#32) = (BitVec.allOnes 8).setWidth 32 from rfl, BitVec.getLsbD_setWidth, BitVec.getLsbD_allOnes]
  by_cases hi : i < 8
  · simp [hi, show i < 32 by omega]
  · simp [hi]

theorem lanePut_getLsbD (w : Word) (j : Nat) (b : Byte) {i : Nat} (hi : i < 32) :
    (lanePut w j b).getLsbD i = if 8 * j ≤ i ∧ i < 8 * j + 8 then b.getLsbD (i - 8 * j) else w.getLsbD i := by
  simp only [lanePut, BitVec.getLsbD_or, BitVec.getLsbD_and, BitVec.getLsbD_not, BitVec.getLsbD_shiftLeft,
    BitVec.getLsbD_setWidth, laneMask_getLsbD]
  by_cases hlow : i < 8 * j
  · simp [hi, hlow, Nat.not_le.2 hlow]
  · by_cases hlane : i < 8 * j + 8
    · simp [hi, hlow, hlane, Nat.not_lt.1 hlow, show i - 8 * j < 8 by omega, show i - 8 * j < 32 by omega]
    · simp [hi, hlow, hlane, show ¬i - 8 * j < 8 by omega, BitVec.getLsbD_of_ge b (i - 8 * j) (by omega)]

theorem laneGet_lanePut (w : Word) (b : Byte) {j k : Nat} (hk : k < 4) :
    laneGet (lanePut w j b) k = if k = j then b else laneGet w k := by
  refine BitVec.eq_of_getLsbD_eq fun i hi => ?_
  rw [laneGet_getLsbD _ _ hi, lanePut_getLsbD w j b (by omega)]
  by_cases hkj : k = j
  · subst hkj
    simp [hi]
  · rw [if_neg (by omega), if_neg hkj, laneGet_getLsbD w k hi]

theorem toNat_append_byte {n : Nat} (x : BitVec n) (b : Byte) : (x ++ b).toNat = 2 ^ 8 * x.toNat + b.toNat := by
  rw [BitVec.toNat_append, ← Nat.shiftLeft_add_eq_or_of_lt b.isLt, Nat.shiftLeft_eq, Nat.mul_comm]

/-- Packing puts the bytes side by side, the first one lowest: a byte has no bits outside its own lane. -/
theorem pack4_eq_append (b0 b1 b2 b3 : Byte) : pack4 b0 b1 b2 b3 = b3 ++ b2 ++ b1 ++ b0 := by
  refine BitVec.eq_of_getLsbD_eq fun i hi => ?_
  simp only [pack4, BitVec.getLsbD_or, BitVec.getLsbD_append, BitVec.getLsbD_shiftLeft, BitVec.getLsbD_setWidth]
  have h0 := BitVec.getLsbD_of_ge b0 i
  have h1 := BitVec.getLsbD_of_ge b1 (i - 8)
  have h2 := BitVec.getLsbD_of_ge b2 (i - 16)
  grind

theorem pack4_toNat (b0 b1 b2 b3 : Byte) :
    (pack4 b0 b1 b2 b3).toNat = b0.toNat + 2 ^ 8 * b1.toNat + 2 ^ 16 * b2.toNat + 2 ^ 24 * b3.toNat := by
  simp only [pack4_eq_append, toNat_append_byte]
  omega

/-- Packed bytes are the lanes in packing order. -/
theorem lanes_pack4 (b0 b1 b2 b3 : Byte) : lanes (pack4 b0 b1 b2 b3) = [b0, b1, b2, b3] := by
  have h0 := b0.isLt
  have h1 := b1.isLt
  have h2 := b2.isLt
  have h3 := b3.isLt
  simp only [lanes, List.cons.injEq, and_true]
  refine ⟨?_, ?_, ?_, ?_⟩ <;> refine BitVec.eq_of_toNat_eq ?_ <;> rw [laneGet_toNat, pack4_toNat] <;> omega

/-- Settles O34: reading, replacing and packing lanes, each by its own law. -/
theorem lanesAreLittleEndian : Obligations.LanesAreLittleEndian :=
  ⟨fun w j _ => laneGet_toNat w j, fun w b _ _ _ hk => laneGet_lanePut w b hk, pack4_toNat⟩

/-! ### Unpacking -/

theorem unpackByte_eq_laneGet (w : Word) : unpackByte w = laneGet w 0 := rfl

theorem unpackRest_toNat (w : Word) : (unpackRest w).toNat = w.toNat / 2 ^ 8 := by
  simp [unpackRest, Nat.shiftRight_eq_div_pow]

/-- Unpacking moves every lane down by one. -/
theorem laneGet_unpackRest (w : Word) (j : Nat) : laneGet (unpackRest w) j = laneGet w (j + 1) := by
  refine BitVec.eq_of_getLsbD_eq fun i hi => ?_
  rw [laneGet_getLsbD _ _ hi, laneGet_getLsbD _ _ hi, unpackRest, BitVec.getLsbD_ushiftRight]
  congr 1
  omega

/-- Settles O35: each unpacking moves the lanes down by one, and four leave none. -/
theorem unpackingGivesTheLanesInOrder : Obligations.UnpackingGivesTheLanesInOrder := by
  refine ⟨fun w => ⟨?_, unpackRest_toNat w⟩, fun w => ⟨rfl, ?_, ?_, ?_, ?_⟩, lanes_pack4⟩
  · simp only [unpackByte_eq_laneGet, laneGet_toNat, Nat.mul_zero, Nat.pow_zero, Nat.div_one]
  · simp only [unpackByte_eq_laneGet, laneGet_unpackRest]
  · simp only [unpackByte_eq_laneGet, laneGet_unpackRest]
  · simp only [unpackByte_eq_laneGet, laneGet_unpackRest]
  · refine BitVec.eq_of_toNat_eq ?_
    have hw := w.isLt
    simp only [unpackRest_toNat, BitVec.ofNat_eq_ofNat, BitVec.toNat_zero]
    omega

/-! ### Words and slots -/

theorem wordCount_eq (c : Nat) : wordCount c = (c + 3) / 4 := rfl

theorem nslots_eq (c i : Nat) : nslots c i = min 4 (c - 4 * i) := rfl

/-- The first `w` words hold the first `4w` bytes, as far as there are that many. -/
theorem sum_nslots (c w : Nat) : ((List.range w).map (nslots c)).sum = min (4 * w) c := by
  induction w with
  | zero => simp
  | succ w ih =>
    rw [List.range_succ, List.map_append, List.sum_append, ih, List.map_singleton, List.sum_singleton, nslots_eq]
    omega

/-- Settles O36: with the number of words and the slots of each as numbers, every clause is arithmetic. -/
theorem slotsOfTheWordsAddUpToTheCount : Obligations.SlotsOfTheWordsAddUpToTheCount := by
  intro c hc
  rw [sum_nslots]
  simp only [wordCount_eq, nslots_eq, true_and]
  exact ⟨by omega, by omega, fun i hi => by omega, fun i hi => by omega, by omega, by omega⟩

/-! ### A transmit in progress -/

/-- The step of a transmit in progress is a step of its FSM. -/
theorem InProgress.step_eq_txStep {op : Op} {p : Port} {s : State} (h : InProgress op p s)
    (hop : op = .putChar ∨ op = .write) : step s = txStep p s := by
  obtain ⟨hrefused, hpin, hmode, hactive, hp⟩ := h
  rw [step_of_not_refused hrefused]
  simp only [cycleRun, hpin, hmode, hactive, advance, resolvePort_registered (registered_ofPort hp)]
  obtain rfl | rfl := hop <;> rfl

/-- The port of the request in progress serves it. -/
theorem InProgress.serving {op : Op} {p : Port} {s : State} (h : InProgress op p s) (hc : ControlInv s) :
    Serving op (s.port p) = true := by
  obtain ⟨hrefused, -, hmode, hactive, -⟩ := h
  have hok := hc.1
  simp only [activeOk, hrefused, hmode, hactive, Bool.and_eq_true, decide_eq_true_eq, toNat_ofPort] at hok
  simpa using hok.2 p

theorem Serving.txsrc_putChar {q : PortState} (h : Serving .putChar q = true) : q.txsrc = .stage := by
  simp only [Serving, Bool.and_eq_true, beq_iff_eq] at h
  exact h.2

theorem Serving.txsrc_write {q : PortState} (h : Serving .write q = true) : q.txsrc = .mem := by
  simp only [Serving, Bool.and_eq_true, beq_iff_eq] at h
  exact h.2

/-- The source of a transmit in progress lies inside the address space, or is the one staging byte. -/
theorem TxBounds.srcFits {s : State} {p : Port} (h : TxBounds s (s.port p)) : SrcFits s p := by
  obtain ⟨-, -, -, -, -, -, -, hmem, hstage⟩ := h
  unfold SrcFits
  split
  · next hsrc => exact (hmem hsrc).2
  · next hsrc => exact hstage hsrc

/-! ### The restore pass -/

/-- The events of restoring the byte of client memory at `a` (R127). -/
def restoreEvents (m : Memory) (a : Nat) : List Event :=
  .mrd a (m.read a) :: if m.read a = sentinel then [.mwr a lf] else []

theorem restoreEvents_congr {m m' : Memory} {a : Nat} (h : m'.read a = m.read a) :
    restoreEvents m' a = restoreEvents m a := by
  simp only [restoreEvents, h]

/-- Restoring the staging byte records nothing and touches no other byte. -/
theorem restoreByte_stage {p : Port} {s : State} (hsrc : (s.port p).txsrc = .stage) (j : Nat) :
    restoreByte p j s = s.setPort p { s.port p with txstg := restored (s.port p).txstg } := by
  by_cases hstg : (s.port p).txstg = sentinel
  · simp [restoreByte, srcByte, srcRead, srcWrite, restored, hsrc, hstg]
  · have hkeep : restoreByte p j s = s := by simp [restoreByte, srcByte, srcRead, hsrc, hstg]
    rw [hkeep, restored, if_neg hstg]
    exact (setPort_port_eq s p).symm

/-- Restoring a byte of client memory changes client memory and records its events. -/
theorem restoreByte_mem {p : Port} {s : State} (hsrc : (s.port p).txsrc = .mem) (j : Nat) :
    ∃ m : Memory, restoreByte p j s =
      { s with mem := m, trace := s.trace ++ restoreEvents s.mem (srcAddr s p j) } := by
  have hread : srcRead p j s = memRead (srcAddr s p j) s := by simp only [srcRead, hsrc]
  by_cases hb : s.mem.read (srcAddr s p j) = sentinel
  · have hwrite : srcWrite p j lf (memRead (srcAddr s p j) s) =
        memWrite (srcAddr s p j) lf (memRead (srcAddr s p j) s) := by simp only [srcWrite, memRead_port, hsrc]; rfl
    refine ⟨s.mem.write (srcAddr s p j) lf, ?_⟩
    simp only [restoreByte, srcByte, restoreEvents, hsrc, hread, hwrite, hb, if_true]
    simp [memWrite, memRead, record, hb]
  · refine ⟨s.mem, ?_⟩
    simp only [restoreByte, srcByte, restoreEvents, hsrc, hread, hb, if_false]
    rfl

/-- The restore pass of a WRITE changes client memory and records the events of each byte in ascending order. A byte
not yet reached is still as the pass found it, since no two source bytes share an address. -/
theorem restoreFrom_mem {p : Port} (n j : Nat) {s : State} (hm : s.mem.wf = true) (hf : SrcFits s p)
    (hsrc : (s.port p).txsrc = .mem) (hj : j + n ≤ (s.port p).txlen) :
    ∃ m : Memory, restoreFrom p n j s =
      { s with
        mem := m
        trace := s.trace ++ (List.range' j n).flatMap fun k => restoreEvents s.mem (srcAddr s p k) } := by
  induction n generalizing j s with
  | zero => exact ⟨s.mem, by simp [restoreFrom]⟩
  | succ n ih =>
    obtain ⟨hso, -, hout⟩ := restoreByte_spec hm hf (by omega : j < (s.port p).txlen)
    have hlater : ∀ k ∈ List.range' (j + 1) n,
        restoreEvents (restoreByte p j s).mem (srcAddr (restoreByte p j s) p k) =
          restoreEvents s.mem (srcAddr s p k) := by
      intro k hk
      have hk := List.mem_range'_1.1 hk
      have hfit : (s.port p).txbuf + (s.port p).txlen ≤ 2 ^ s.cfg.addrW := by simpa only [SrcFits, hsrc] using hf
      rw [hso.srcAddr]
      refine restoreEvents_congr (hout _ fun _ heq => ?_)
      have := (srcAddr_inj hfit (by omega) (by omega)).1 heq
      omega
    obtain ⟨m, hrest⟩ :=
      ih (j + 1) (hso.memWf hm) (hso.srcFits hf) (hso.txsrc.trans hsrc) (by rw [hso.txlen]; omega)
    obtain ⟨m', hbyte⟩ := restoreByte_mem hsrc j
    refine ⟨m, ?_⟩
    rw [restoreFrom, hrest, List.flatMap_congr hlater, hbyte, List.range'_succ, List.flatMap_cons,
      ← List.append_assoc]

/-- The restore pass of a PUT_CHAR restores the staging byte. -/
theorem restorePass_stage {p : Port} {s : State} (hsrc : (s.port p).txsrc = .stage) (hf : SrcFits s p) :
    restorePass p (s.port p).txlen s = s.setPort p { s.port p with txstg := restored (s.port p).txstg } := by
  have hlen : (s.port p).txlen = 1 := by simpa only [SrcFits, hsrc] using hf
  rw [hlen]
  exact restoreByte_stage hsrc 0

/-- The restore pass of a WRITE reads every byte of the buffer once in ascending order, turns each `SENTINEL` into `LF`,
and leaves every other byte of client memory as it was. -/
theorem restorePass_mem {p : Port} {s : State} (hm : s.mem.wf = true) (hf : SrcFits s p)
    (hsrc : (s.port p).txsrc = .mem) :
    ∃ m : Memory, restorePass p (s.port p).txlen s =
      { s with
        mem := m
        trace := s.trace ++
          (List.range (s.port p).txlen).flatMap fun k => restoreEvents s.mem ((s.port p).txbuf + k) } ∧
      ∀ a, m.read a =
        if (s.port p).txbuf ≤ a ∧ a < (s.port p).txbuf + (s.port p).txlen ∧ s.mem.read a = sentinel then lf
        else s.mem.read a := by
  have hfit : (s.port p).txbuf + (s.port p).txlen ≤ 2 ^ s.cfg.addrW := by simpa only [SrcFits, hsrc] using hf
  have haddr {k : Nat} (hk : k < (s.port p).txlen) : srcAddr s p k = (s.port p).txbuf + k :=
    busAddr_of_lt s (by omega)
  obtain ⟨hso, hin, hout⟩ := restoreFrom_spec (s.port p).txlen 0 hm hf (by omega)
  obtain ⟨m, hpass⟩ := restoreFrom_mem (s.port p).txlen 0 hm hf hsrc (by omega)
  refine ⟨m, ?_, fun a => ?_⟩
  · rw [restorePass, hpass, ← List.range_eq_range',
      List.flatMap_congr fun k hk => by rw [haddr (List.mem_range.1 hk)]]
  · rw [show m = (restoreFrom p (s.port p).txlen 0 s).mem by rw [hpass]]
    by_cases ha : (s.port p).txbuf ≤ a ∧ a < (s.port p).txbuf + (s.port p).txlen
    · obtain ⟨k, rfl⟩ := Nat.exists_eq_add_of_le ha.1
      have hk : k < (s.port p).txlen := by omega
      have hbyte := hin k hk
      simp only [srcByte, hso.txsrc, hsrc, hso.srcAddr, haddr hk] at hbyte
      rw [hbyte, if_pos (by omega)]
      simp only [restored, ha, true_and]
    · rw [hout a fun _ k hk => by rw [haddr hk]; omega, if_neg fun h => ha ⟨h.1, h.2.1⟩]

/-! ### The end of a transmit -/

/-- After a restore pass that changes client memory, the staging byte and the trace, the FSM is idle and the request is
answered (42_transmit.md R150). -/
theorem txRestore_eq {p : Port} {s : State} {m : Memory} {es : List Event} {b : Byte}
    (h : restorePass p (s.port p).txlen s =
      { s with mem := m, trace := s.trace ++ es, ports := s.ports.set p { s.port p with txstg := b } }) :
    txRestore p s =
      { s with
        active := none, rspStatus := 0x00, rspData := 0, mem := m, trace := s.trace ++ es ++ [.rsp 0x00 0]
        ports := s.ports.set p { s.port p with txs := .idle, txsub := .none, txstg := b } } := by
  simp only [txRestore, h]
  simp [respond, record, State.setPort, State.port, statusCode]

/-- Settles O29: the invariant says where the source lies, and each kind of source has its restore pass. -/
theorem restoreStepEndsTheTransmit : Obligations.RestoreStepEndsTheTransmit := by
  intro s op p hinv hprog hop htxs htxsub
  have hfits : SrcFits s p := (hinv.transmit p (by simp [htxs])).1.srcFits
  have hserv := hprog.serving hinv.control
  refine ⟨txRestore p s, by rw [hprog.step_eq_txStep hop]; simp only [txStep, htxs, htxsub], ?_⟩
  obtain rfl | rfl := hop
  · have hpass := restorePass_stage (Serving.txsrc_putChar hserv) hfits
    rw [txRestore_eq (m := s.mem) (es := []) (by rw [hpass, List.append_nil]; rfl)]
    simp [State.port, restored]
  · obtain ⟨m, hpass, hread⟩ := restorePass_mem hinv.mem.1 hfits (Serving.txsrc_write hserv)
    rw [txRestore_eq (b := (s.port p).txstg) (by rw [hpass]; exact (setPort_port_eq _ p).symm)]
    refine ⟨?_, Op.noConfusion, fun _ => ⟨?_, rfl, hread⟩⟩
    · simp [State.port]
    · simp [State.port]
end Sys2Proof.Machine
end

section
/-! 42_transmit.md: the checks and the count pass of a transmit (R141, R154) and its steps before the restore pass
(R144, R145, R148, R149). -/

namespace Sys2Proof.Machine

/-! ### The count pass -/

/-- The physical character count `C` of the source of port `p` (41_packing.md R124). -/
def charCount (s : State) (p : Port) : Nat := (s.port p).txlen + (srcBytes s p 0 (s.port p).txlen).count lf

/-- The state after the reads of the count pass over the source of port `p`. -/
def counted (p : Port) (s : State) : State :=
  { s with trace := s.trace ++ (List.range (s.port p).txlen).flatMap (srcReadEvents s p) }

theorem countPass_txlen (p : Port) (s : State) : countPass p (s.port p).txlen s = (charCount s p, counted p s) := by
  rw [countPass_eq, ← List.range_eq_range']
  rfl

/-- A source byte becomes at most two physical characters. -/
theorem charCount_le (s : State) (p : Port) : charCount s p ≤ 2 * (s.port p).txlen := by
  have hcount := List.count_le_length (a := lf) (l := srcBytes s p 0 (s.port p).txlen)
  simp only [srcBytes, List.length_map, List.length_range'] at hcount
  simp only [charCount, srcBytes]
  omega

/-- A count too wide for the count register is refused after the count pass (R154). -/
theorem txRun_too_wide {p : Port} {s : State} (h : 2 ^ s.cfg.ncharW - 1 < charCount s p) :
    txRun p s = .next (refuse .ncharOverflow (counted p s)) := by
  simp only [txRun, countPass_txlen, if_pos h]

/-- A count that fits starts the FSM after the count pass (R143). -/
theorem txRun_fits {p : Port} {s : State} (h : charCount s p ≤ 2 ^ s.cfg.ncharW - 1) :
    txRun p s = .next ((counted p s).setPort p (txStarted (charCount s p) (s.port p))) := by
  simp only [txRun, countPass_txlen, if_neg (Nat.not_lt.2 h)]
  rfl

/-! ### The source of a transmit -/

/-- The state of an accepted WRITE that passed its checks: its buffer is the source (R140). -/
def writeSource (port : PortField) (p : Port) (buf : Nat) (len : Word) (s : State) : State :=
  (activate .write port s).setPort p { s.port p with txsrc := .mem, txbuf := buf, txlen := len.toNat }

/-- The state of an accepted PUT_CHAR on a registered port: the staging byte is the source (R142). -/
def putcSource (port : PortField) (p : Port) (byte : Byte) (s : State) : State :=
  (activate .putChar port s).setPort p { s.port p with txsrc := .stage, txstg := byte, txlen := 1 }

@[simp] theorem writeSource_port (port : PortField) (p : Port) (buf : Nat) (len : Word) (s : State) :
    (writeSource port p buf len s).port p = { s.port p with txsrc := .mem, txbuf := buf, txlen := len.toNat } :=
  setPort_port_self _ _ _

@[simp] theorem putcSource_port (port : PortField) (p : Port) (byte : Byte) (s : State) :
    (putcSource port p byte s).port p = { s.port p with txsrc := .stage, txstg := byte, txlen := 1 } :=
  setPort_port_self _ _ _

theorem exec_write_registered {s : State} {port : PortField} {p : Port} (h : Registered s port p) (buf : Nat)
    (len : Word) :
    exec (.write port buf len) s =
      if buf = 0 ∨ signedLen len ≤ 0 then .next (respond .errInval 0 (activate .write port s))
      else if 2 ^ s.cfg.addrW - 1 < buf + len.toNat - 1 then .next (refuse .writeRangeWraps (activate .write port s))
      else txRun p (writeSource port p buf len s) := by
  simp only [exec, execWrite, resolvePort_activate, resolvePort_registered h]
  rfl

theorem exec_putc_registered {s : State} {port : PortField} {p : Port} (h : Registered s port p) (byte : Byte) :
    exec (.putc port byte) s = txRun p (putcSource port p byte s) := by
  simp only [exec, execPutc, resolvePort_activate, resolvePort_registered h]
  rfl

/-- A WRITE that passes its checks runs its transmit. -/
theorem exec_write_passes {s : State} {port : PortField} {p : Port} {buf : Nat} {len : Word}
    (h : Registered s port p) (hbuf : buf ≠ 0) (hlen : 0 < signedLen len)
    (hrange : buf + len.toNat ≤ 2 ^ s.cfg.addrW) :
    exec (.write port buf len) s = txRun p (writeSource port p buf len s) := by
  rw [exec_write_registered h, if_neg (not_or.2 ⟨hbuf, Int.not_le.2 hlen⟩), if_neg (by omega)]

/-- Settles O19: the argument check answers in the step that accepts the request. -/
theorem writeRejectsBadArguments : Obligations.WriteRejectsBadArguments := by
  intro s port p buf len h hbad
  rw [exec_write_registered h, if_pos hbad, respond_activate]
  rfl

theorem srcAddr_writeSource {s : State} {port : PortField} {p : Port} {buf : Nat} {len : Word} {k : Nat}
    (hk : buf + k < 2 ^ s.cfg.addrW) : srcAddr (writeSource port p buf len s) p k = buf + k := by
  rw [srcAddr, writeSource_port]
  exact busAddr_of_lt (writeSource port p buf len s) hk

/-- The bytes of a buffer inside the address space are client memory from its address on. -/
theorem srcBytes_writeSource {s : State} {port : PortField} {p : Port} {buf : Nat} {len : Word}
    (hrange : buf + len.toNat ≤ 2 ^ s.cfg.addrW) :
    srcBytes (writeSource port p buf len s) p 0 len.toNat = memBytes s buf len.toNat := by
  rw [srcBytes, memBytes, ← List.range_eq_range']
  refine List.map_congr_left fun k hk => ?_
  have hk := List.mem_range.1 hk
  simp only [srcByte, writeSource_port, srcAddr_writeSource (show buf + k < 2 ^ s.cfg.addrW by omega)]
  rfl

theorem charCount_writeSource {s : State} {port : PortField} {p : Port} {buf : Nat} {len : Word}
    (hrange : buf + len.toNat ≤ 2 ^ s.cfg.addrW) :
    charCount (writeSource port p buf len s) p = len.toNat + (memBytes s buf len.toNat).count lf := by
  simp only [charCount, writeSource_port, srcBytes_writeSource hrange]

theorem srcReadEvents_writeSource {s : State} {port : PortField} {p : Port} {buf : Nat} {len : Word} {k : Nat}
    (hk : buf + k < 2 ^ s.cfg.addrW) :
    srcReadEvents (writeSource port p buf len s) p k = [.mrd (buf + k) (s.mem.read (buf + k))] := by
  simp only [srcReadEvents, srcAddr_writeSource hk, writeSource_port]
  rfl

/-- The count pass of a WRITE reads each byte of the buffer once, in ascending order. -/
theorem counted_writeSource {s : State} {port : PortField} {p : Port} {buf : Nat} {len : Word}
    (hrange : buf + len.toNat ≤ 2 ^ s.cfg.addrW) :
    counted p (writeSource port p buf len s) =
      { writeSource port p buf len s with
        trace := s.trace ++ (List.range len.toNat).map fun k => .mrd (buf + k) (s.mem.read (buf + k)) } := by
  have hreads : (List.range len.toNat).flatMap (srcReadEvents (writeSource port p buf len s) p) =
      (List.range len.toNat).map fun k => .mrd (buf + k) (s.mem.read (buf + k)) := by
    rw [List.map_eq_flatMap]
    refine List.flatMap_congr fun k hk => srcReadEvents_writeSource ?_
    have hk := List.mem_range.1 hk
    omega
  simp only [counted, writeSource_port, hreads]
  rfl

theorem charCount_putcSource (s : State) (port : PortField) (p : Port) (byte : Byte) :
    charCount (putcSource port p byte s) p = if byte = lf then 2 else 1 := by
  by_cases hlf : byte = lf <;> simp [charCount, srcBytes, srcByte, hlf]

/-- The count pass of a PUT_CHAR records no event. -/
theorem counted_putcSource (s : State) (port : PortField) (p : Port) (byte : Byte) :
    counted p (putcSource port p byte s) = putcSource port p byte s := by
  simp [counted, srcReadEvents]

/-! ### A count too wide for the count register -/

/-- A positive signed length is below `2^31`. -/
theorem toNat_lt_of_signedLen_pos {len : Word} (h : 0 < signedLen len) : len.toNat < 2 ^ 31 := by
  simp only [signedLen, BitVec.toInt_eq_toNat_cond] at h
  have := len.isLt
  split at h <;> omega

/-- With 32 bits for the count, a source of fewer than `2^31` bytes is never refused. -/
theorem txRun_refused_of_ncharW_32 {p : Port} {s t : State} (hw : s.cfg.ncharW = 32)
    (hlen : (s.port p).txlen < 2 ^ 31) (h : txRun p s = .next t) : t.refused = s.refused := by
  have hle := charCount_le s p
  rw [txRun_fits (by rw [hw]; omega)] at h
  cases h
  rfl

/-- A request on an unregistered port is answered, so one that changes the mark of a refusal names a registered port. -/
theorem registered_of_refused_ne {i : Instr} {s t : State} (hi : i.op ≠ .init) (h : exec i s = .next t)
    (hne : t.refused ≠ s.refused) : ∃ p : Port, Registered s i.port p := by
  obtain hlt | hge := Nat.lt_or_ge i.port.toNat s.nports.val
  · exact ⟨⟨i.port.toNat, by omega⟩, rfl, hlt⟩
  · rw [exec_unregistered hi hge] at h
    cases h
    exact absurd rfl hne

/-- Only a request that runs a transmit can be refused for `NCHAR_OVERFLOW`, and its source has fewer than `2^31`
bytes. -/
theorem exec_ncharOverflow {i : Instr} {s t : State} (hs : s.refused = none) (h : exec i s = .next t)
    (ht : t.refused = some .ncharOverflow) :
    ∃ (p : Port) (u : State),
      txRun p u = .next t ∧ u.cfg = s.cfg ∧ u.refused = none ∧ (u.port p).txlen < 2 ^ 31 := by
  have hne : t.refused ≠ s.refused := by simp [hs, ht]
  cases i with
  | init port uartBase clkBase =>
    simp only [exec, execInit] at h
    split_ifs at h <;> cases h <;> simp [hs] at ht
  | putc port byte =>
    obtain ⟨p, hp⟩ := registered_of_refused_ne Op.noConfusion h hne
    rw [exec_putc_registered (port := port) hp] at h
    exact ⟨p, _, h, rfl, hs, by simp⟩
  | getc port wait =>
    obtain ⟨p, hp⟩ := registered_of_refused_ne Op.noConfusion h hne
    simp only [exec, execGetc, resolvePort_activate, resolvePort_registered (port := port) hp] at h
    split at h <;> cases h <;> exact absurd rfl hne
  | write port buf len =>
    obtain ⟨p, hp⟩ := registered_of_refused_ne Op.noConfusion h hne
    rw [exec_write_registered (port := port) hp] at h
    split_ifs at h with hbad hwrap
    · cases h
      exact absurd rfl hne
    · cases h
      simp at ht
    · obtain ⟨-, hlen⟩ := not_or.1 hbad
      exact ⟨p, _, h, rfl, hs, by simpa using toNat_lt_of_signedLen_pos (Int.not_le.1 hlen)⟩
  | lookup port =>
    obtain ⟨p, hp⟩ := registered_of_refused_ne Op.noConfusion h hne
    rw [exec_lookup_registered (port := port) hp] at h
    cases h
    exact absurd rfl hne

/-- Settles O21: each source has its count and its reads, and no count needs more than 32 bits. -/
theorem countTooWideIsRefused : Obligations.CountTooWideIsRefused := by
  refine ⟨fun s port p buf len hp hbuf hlen hrange hwide => ?_, fun s port p byte hp hwide => ?_,
    fun s t i hw hs h ht => ?_⟩
  · rw [exec_write_passes hp hbuf hlen hrange, txRun_too_wide (charCount_writeSource hrange ▸ hwide),
      counted_writeSource hrange]
    exact ⟨_, rfl, rfl⟩
  · rw [exec_putc_registered hp, txRun_too_wide (charCount_putcSource s port p byte ▸ hwide), counted_putcSource]
    exact ⟨_, rfl, rfl⟩
  · obtain ⟨p, u, hrun, hcfg, hu, hlen⟩ := exec_ncharOverflow hs h ht
    have hkept := txRun_refused_of_ncharW_32 (hcfg ▸ hw) hlen hrun
    simp [ht, hu] at hkept

/-! ### The steps of the transmit FSM -/

theorem txCheckEmpty_eq (p : Port) (s : State) :
    txCheckEmpty p s = (regRead p .sr s).setPort p
      (if (answer s).getLsbD s.cfg.srTxemt then { s.port p with txs := .criticalWrite, txsub := .none }
       else { s.port p with txsub := .pollTxready }) := by
  rw [apply_ite ((regRead p .sr s).setPort p)]
  rfl

theorem txPollTxready_eq (p : Port) (s : State) :
    txPollTxready p s = (regRead p .isr s).setPort p
      (if (answer s).getLsbD s.cfg.isrTxready then { s.port p with txs := .criticalWrite, txsub := .none }
       else s.port p) := by
  rw [apply_ite ((regRead p .isr s).setPort p), ← regRead_port s p .isr, setPort_port_eq]
  rfl

/-- Settles O24: each sub-state makes its one read and branches on its bit. -/
theorem waitFifoEmptyStep : Obligations.WaitFifoEmptyStep := by
  intro s op p hprog hop htxs htxsub
  obtain hsub | hsub := htxsub
  · have hstep : step s = .next (txCheckEmpty p s) := by
      rw [hprog.step_eq_txStep hop]
      simp only [txStep, htxs, hsub]
    exact ⟨_, hstep, fun _ => by rw [txCheckEmpty_eq]; rfl, fun h => by simp [hsub] at h⟩
  · have hstep : step s = .next (txPollTxready p s) := by
      rw [hprog.step_eq_txStep hop]
      simp only [txStep, htxs, hsub]
    exact ⟨_, hstep, fun h => by simp [hsub] at h, fun _ => by rw [txPollTxready_eq]; rfl⟩

/-- Entering the critical section records its three events in order (R145). -/
theorem txCriticalWrite_eq (p : Port) (s : State) :
    txCriticalWrite p s =
      { s with
        trace := s.trace ++
          [.critEnter p, .wr (regAddr s p .nchar) (BitVec.ofNat 32 (s.port p).txc),
           .wr (regAddr s p .cr) s.cfg.cmdResetTxready]
        ports := s.ports.set p { s.port p with txs := .packAndDrain, txsub := .pack } } := by
  simp only [txCriticalWrite, regWrite, busWrite, critEnter, record, List.append_assoc, List.cons_append,
    List.nil_append]
  rfl

/-- Settles O25: the step of `CRITICAL_WRITE`. -/
theorem criticalWriteStep : Obligations.CriticalWriteStep := by
  intro s op p hprog hop htxs htxsub
  rw [hprog.step_eq_txStep hop, ← txCriticalWrite_eq]
  simp only [txStep, htxs, htxsub]

theorem txPush_next {p : Port} {s : State} (h : (s.port p).txi + 1 < (s.port p).txw) :
    txPush p s =
      { s with
        trace := s.trace ++ [.wr (regAddr s p .tf) (s.port p).txword]
        ports := s.ports.set p { s.port p with txi := (s.port p).txi + 1, txsub := .pack } } := by
  simp only [txPush, if_pos h, setSub, setPort_setPort, setPort_port_self, regWrite_port]
  rfl

/-- After the last word the section ends with no access between (R149). -/
theorem txPush_last {p : Port} {s : State} (h : (s.port p).txw ≤ (s.port p).txi + 1) :
    txPush p s =
      { s with
        trace := s.trace ++ [.wr (regAddr s p .tf) (s.port p).txword, .critExit p]
        ports := s.ports.set p { s.port p with txi := (s.port p).txi + 1, txsub := .restore } } := by
  simp only [txPush, if_neg (Nat.not_lt.2 h), setSub, critExit_port, setPort_port_self, regWrite_port]
  simp [critExit, regWrite, busWrite, record, State.setPort]

/-- Settles O28: another word is packed, or the section ends. -/
theorem pushStep : Obligations.PushStep := by
  intro s op p hprog hop htxs htxsub
  have hstep : step s = .next (txPush p s) := by
    rw [hprog.step_eq_txStep hop]
    simp only [txStep, htxs, htxsub]
  exact ⟨fun hmore => by rw [hstep, txPush_next hmore], fun hlast => by rw [hstep, txPush_last hlast]⟩

end Sys2Proof.Machine
end

section
/-! 43_receive.md: the sub-states of a fetch and its two exits (R171, R172, R174 to R178). -/

namespace Sys2Proof.Machine

/-! ### A fetch in progress -/

/-- The step of a GET_CHAR in progress is a step of its fetch. -/
theorem InProgress.step_eq_rxStep {p : Port} {s : State} (h : InProgress .getChar p s) : step s = rxStep p s := by
  obtain ⟨hrefused, hpin, hmode, hactive, hp⟩ := h
  rw [step_of_not_refused hrefused]
  simp only [cycleRun, hpin, hmode, hactive, advance, resolvePort_registered (registered_ofPort hp)]
  rfl

/-- Every sub-state of a fetch has its step. -/
theorem rxStep_next {p : Port} {s : State} (h : (s.port p).rxs ≠ .idle) : ∃ t, rxStep p s = .next t := by
  unfold rxStep
  split
  · next hidle => exact absurd hidle h
  all_goals exact ⟨_, rfl⟩

/-! ### Exit `READY` -/

theorem unpackByte_toNat (w : Word) : (unpackByte w).toNat = w.toNat % 256 := (unpackingGivesTheLanesInOrder.1 w).1

/-- The first byte of the fetched word is answered, and the cache holds the rest (R172, R173). -/
theorem rxReady_eq (p : Port) (s : State) :
    rxReady p s = respond .success ((s.port p).rxtmp.toNat % 256)
      (s.setPort p { s.port p with rxc := (s.port p).rxtmp >>> 8, rxs := .idle }) := by
  simp only [rxReady, extractByte, setPort_port_self, setPort_setPort, unpackByte_toNat, unpackRest]

theorem rxRead_eq (p : Port) (s : State) :
    rxRead p s =
      { s with
        answers := s.answers.tail, draws := s.draws + 1
        active := none, rspStatus := 0x00, rspData := (answer s).toNat % 256
        trace := s.trace ++ [.rd (regAddr s p .rf) (answer s), .rsp 0x00 ((answer s).toNat % 256)]
        ports := s.ports.set p { s.port p with rxtmp := answer s, rxc := answer s >>> 8, rxs := .idle } } := by
  simp only [rxRead, rxReadWord, rxReady_eq, setPort_port_self, setPort_setPort, respond, record, setPort_trace,
    regRead_trace, List.append_assoc, List.singleton_append]
  rfl

theorem rxRearm_eq (p : Port) (s : State) :
    rxRearm p s =
      { s with
        active := none, rspStatus := 0x00, rspData := (s.port p).rxtmp.toNat % 256
        trace := s.trace ++
          [.wr (regAddr s p .rxwm) s.cfg.rxwmRearm, .rsp 0x00 ((s.port p).rxtmp.toNat % 256)]
        ports := s.ports.set p { s.port p with rxc := (s.port p).rxtmp >>> 8, rxs := .idle } } := by
  simp only [rxRearm, rxReady_eq, regWrite_port, respond, record, setPort_trace, regWrite_trace, List.append_assoc,
    List.singleton_append]
  rfl

/-! ### The word of a forced-stale fetch -/

theorem rxStaleRead_eq (p : Port) (s : State) :
    rxStaleRead p s = (regRead p .rf s).setPort p { s.port p with rxtmp := answer s, rxs := .fResetStale } := by
  simp only [rxStaleRead, setRxs, rxReadWord, setPort_port_self, setPort_setPort, regRead_port]

/-! ### The occupancy check and exit `NOT_READY` -/

theorem rxOccCheck_occupied {p : Port} {s : State} (h : answer s &&& s.cfg.rxoccMask ≠ 0) :
    rxOccCheck p s = setRxs p .fForceStale (regRead p .rxocc s) :=
  if_pos (bne_iff_ne.2 h)

theorem rxOccCheck_empty {p : Port} {s : State} (h : answer s &&& s.cfg.rxoccMask = 0) :
    rxOccCheck p s = rxNotReady p (regRead p .rxocc s) :=
  if_neg fun hocc => bne_iff_ne.1 hocc h

/-- A waiting request fetches again (R178). -/
theorem rxOccCheck_empty_waiting {p : Port} {s : State} (h : answer s &&& s.cfg.rxoccMask = 0)
    (hwait : (s.port p).rxwait = true) : rxOccCheck p s = setRxs p .fOvrCheck (regRead p .rxocc s) :=
  (rxOccCheck_empty h).trans (if_pos hwait)

/-- A request that does not wait is answered (R170). -/
theorem rxOccCheck_empty_not_waiting {p : Port} {s : State} (h : answer s &&& s.cfg.rxoccMask = 0)
    (hwait : (s.port p).rxwait = false) :
    rxOccCheck p s =
      { s with
        answers := s.answers.tail, draws := s.draws + 1
        active := none, rspStatus := 0x02, rspData := 0
        trace := s.trace ++ [.rd (regAddr s p .rxocc) (answer s), .rsp 0x02 0]
        ports := s.ports.set p { s.port p with rxs := .idle } } := by
  simp only [rxOccCheck_empty h, rxNotReady, regRead_port, hwait, setRxs, respond, record, setPort_trace,
    regRead_trace, List.append_assoc, List.singleton_append]
  rfl

/-- Settles O39: the sub-state picks the row of the table, and each row is its one access, its branch and its exit. -/
theorem fetchFollowsItsTable : Obligations.FetchFollowsItsTable := by
  intro s p hprog hrxs
  obtain ⟨t, ht⟩ := rxStep_next hrxs
  have hrow := rxStep_cases ht
  refine ⟨t, hprog.step_eq_rxStep.trans ht, fun h => ?ovrCheck, fun h => ?ovrClear, fun h => ?rdyCheck,
    fun h => ?read, fun h hocc => ?occupied, fun h hocc hwait => ?waiting, fun h hocc hwait => ?notReady,
    fun h => ?forceStale, fun h => ?staleRead, fun h => ?resetStale, fun h => ?rearm⟩
  all_goals
    simp only [h, reduceCtorEq, true_and, false_and, or_false, false_or] at hrow
    subst hrow
  case ovrCheck => rfl
  case ovrClear => rfl
  case rdyCheck => rfl
  case read => rw [rxRead_eq]
  case occupied => rw [rxOccCheck_occupied hocc]; rfl
  case waiting => rw [rxOccCheck_empty_waiting hocc hwait]; rfl
  case notReady => rw [rxOccCheck_empty_not_waiting hocc hwait]
  case forceStale => rfl
  case staleRead => rw [rxStaleRead_eq]; rfl
  case resetStale => rfl
  case rearm => rw [rxRearm_eq]

end Sys2Proof.Machine
end

section
/-! 70_reset_and_hazards.md: the step of an asserted reset (R230). -/

namespace Sys2Proof.Machine

/-- In a run that is not refused an asserted reset takes effect, whatever the block is doing (R230). -/
theorem step_of_resetPin {s : State} (hrefused : s.refused = none) (hpin : s.resetPin = true) :
    step s = .next (resetBlock s) := by
  rw [step_of_not_refused hrefused, cycleRun, if_pos hpin]

/-- Settles O11: the step is `resetBlock`, and each per-port table of its state holds one value for every port. -/
theorem resetSetsEveryRegister : Obligations.ResetSetsEveryRegister := by
  intro s hrefused hpin
  exact ⟨resetBlock s, step_of_resetPin hrefused hpin, resetBlock_nports s, PerPort.get_all 0, resetBlock_mode s,
    resetBlock_active s, resetBlock_rspStatus s, resetBlock_rspData s, resetBlock_port s, resetBlock_trace s,
    resetBlock_mem s⟩

end Sys2Proof.Machine
end

section
/-! 30_encoding.md: decoding is the inverse of encoding (R71 to R77), and ignored operands (R74). -/

namespace Sys2Proof

/-- Settles O1: the decoder evaluated on the nine words. -/
theorem specWordsDecodeAsWritten : Obligations.SpecWordsDecodeAsWritten := by
  unfold Obligations.SpecWordsDecodeAsWritten
  decide

/-! ### Decode after encode -/

theorem encodedFields (i : Instr) : Laws.EncodedFields.Statement i := by
  cases i with
  | init port uartBase clkBase => exact Laws.EncodedFields.init port uartBase clkBase
  | putc port byte => exact Laws.EncodedFields.putc port byte
  | getc port wait => exact Laws.EncodedFields.getc port wait
  | write port buf len => exact Laws.EncodedFields.write port buf len
  | lookup port => exact Laws.EncodedFields.lookup port

/-- The command word of an instruction is legal for its operation. -/
theorem legalFields_encode (i : Instr) : LegalFields (encode i).cw i.op := by
  obtain ⟨hop, -, hrsv0, hrsv1, hwait, hbyte⟩ := encodedFields i
  exact ⟨hop, hrsv0, hrsv1, fun hw => by_contra fun hne => by simp [hwait hne] at hw,
    fun hb => by_contra fun hne => hb (hbyte hne)⟩

theorem mod_of_fitsAddr {addrW n : Nat} (h : fitsAddr addrW n = true) : n % 2 ^ addrW = n :=
  Nat.mod_eq_of_lt (by simpa [fitsAddr] using h)

theorem wait_commandWord (op : Op) (wait : Bool) (port : PortField) (byte : Byte) :
    CW.wait (commandWord op wait port byte) = wait := by
  obtain ⟨-, h, -⟩ := fields_commandWord op wait port byte
  exact h

theorem port_commandWord (op : Op) (wait : Bool) (port : PortField) (byte : Byte) :
    CW.port (commandWord op wait port byte) = port := by
  obtain ⟨-, -, -, h, -⟩ := fields_commandWord op wait port byte
  exact h

theorem byte_commandWord (op : Op) (wait : Bool) (port : PortField) (byte : Byte) :
    CW.byte (commandWord op wait port byte) = byte := by
  obtain ⟨-, -, -, -, h, -⟩ := fields_commandWord op wait port byte
  exact h

/-- The fields of an encoded instruction are its operands, when they fit the address width. -/
theorem fieldsOf_encode {addrW : Nat} {i : Instr} (h : i.wf addrW = true) : fieldsOf addrW (encode i) i.op = i := by
  cases i with
  | init port uartBase clkBase =>
    simp only [Instr.wf, Bool.and_eq_true] at h
    simp only [Instr.op, fieldsOf, encode, port_commandWord, mod_of_fitsAddr h.1, mod_of_fitsAddr h.2]
  | putc port byte => simp only [Instr.op, fieldsOf, encode, port_commandWord, byte_commandWord]
  | getc port wait => simp only [Instr.op, fieldsOf, encode, port_commandWord, wait_commandWord]
  | write port buf len =>
    simp only [Instr.wf, Bool.and_eq_true] at h
    simp only [Instr.op, fieldsOf, encode, port_commandWord, mod_of_fitsAddr h.1, mod_of_fitsAddr h.2,
      BitVec.ofNat_toNat, BitVec.setWidth_eq]
  | lookup port => simp only [Instr.op, fieldsOf, encode, port_commandWord]

/-- Settles O2: the encoded command word is legal for its operation, and its fields are the operands. -/
theorem decodeOfEncodeIsTheInstruction : Obligations.DecodeOfEncodeIsTheInstruction := fun _ i h =>
  decode_eq_legal_iff.2 ⟨i.op, legalFields_encode i, (fieldsOf_encode h).symm⟩

end Sys2Proof

namespace Sys2Proof.Machine

/-! ### Accepting a legal request -/

theorem accept_of_legalFields {r : Request} {op : Op} (h : LegalFields r.cw op) (s : State) :
    accept r s = exec (fieldsOf s.cfg.addrW r op) s := by
  simp only [accept, decode_eq_legal_iff.2 ⟨op, h, rfl⟩]

/-- The length is the low 32 bits of an operand of at least 32 bits (R74). -/
theorem ofNat_mod_addrW {addrW b c : Nat} (hw : 32 ≤ addrW) (h : b % 2 ^ 32 = c % 2 ^ 32) :
    BitVec.ofNat 32 (b % 2 ^ addrW) = BitVec.ofNat 32 (c % 2 ^ addrW) := by
  have hdvd : 2 ^ 32 ∣ 2 ^ addrW := Nat.pow_dvd_pow 2 hw
  refine BitVec.eq_of_toNat_eq ?_
  rw [BitVec.toNat_ofNat, BitVec.toNat_ofNat, Nat.mod_mod_of_dvd _ hdvd, Nat.mod_mod_of_dvd _ hdvd, h]

/-- Settles O5: the command word alone says whether the request is legal, and the fields read from it and from the
operands that are not ignored are the same. -/
theorem ignoredOperandsHaveNoEffect : Obligations.IgnoredOperandsHaveNoEffect := by
  intro r a b i s hw hd
  obtain ⟨op, hlegal, rfl⟩ := decode_eq_legal_iff.1 hd
  rw [fieldsOf_op, accept_of_legalFields hlegal, accept_of_legalFields (r := { r with a := a, b := b }) hlegal,
    accept_of_legalFields (r := { r with b := b }) hlegal]
  refine ⟨?_, ?_, ?_⟩
  · rintro (rfl | rfl | rfl) <;> rfl
  · rintro rfl
    rfl
  · rintro rfl hb
    simp only [fieldsOf, ofNat_mod_addrW hw hb]

/-! ### The step of a free block -/

/-- A free block takes the next act of its client. -/
theorem Accepting.step_eq {s : State} (h : Accepting s) : step s = takeClient s := by
  obtain ⟨hrefused, hpin, hmode, hactive⟩ := h
  rw [step_of_not_refused hrefused]
  simp only [cycleRun, hpin, hmode, hactive]
  rfl

theorem takeClient_request {s : State} {r : Request} {rest : List ClientAct} (h : s.client = .request r :: rest) :
    takeClient s = accept r { s with client := rest } := by
  simp only [takeClient, h]

theorem accept_legal {s : State} {r : Request} {i : Instr} (h : decode s.cfg.addrW r = .legal i) :
    accept r s = exec i s := by
  simp only [accept, h]

/-- Settles O7: a free block takes the request at the head of its client's list, and decoding inverts encoding. -/
theorem stepRunsTheDecodedRequest : Obligations.StepRunsTheDecodedRequest := by
  refine ⟨fun s r rest hs hc => ?_, fun s rest i hs hc hi => ?_⟩
  · rw [hs.step_eq, takeClient_request hc]
    exact ⟨rfl, fun i hd => accept_legal hd⟩
  · rw [hs.step_eq, takeClient_request hc]
    exact accept_legal (decodeOfEncodeIsTheInstruction _ i hi)

/-- Settles O10: a store of the client is one write of client memory. -/
theorem freeBlockWaitsAndTheClientStores : Obligations.FreeBlockWaitsAndTheClientStores := by
  refine ⟨fun s hs hc => ?_, fun s a v rest hs hm ha hc => ⟨s.mem.write a v, ?_, Memory.wf_write hm, fun b =>
    Memory.read_write hm⟩⟩
  · rw [hs.step_eq]
    simp only [takeClient, hc]
  · rw [hs.step_eq]
    simp only [takeClient, hc, clientStore, busAddr, Nat.mod_eq_of_lt ha]

end Sys2Proof.Machine
end

section
/-! 40_registry.md R105 and 20_memory.md R53: INIT on a full registry, and the addresses of a port's registers. -/

namespace Sys2Proof.Machine

/-- On a full registry INIT issues its two resets and raises `FATAL` (R105). -/
theorem exec_init_full {uartBase : Nat} {s : State} (halign : uartBase % 4 = 0) (hfull : ¬s.nports.val < nPorts)
    (port : PortField) (clkBase : Nat) :
    exec (.init port uartBase clkBase) s = .next (raiseFatal (initResets uartBase (activate .init port s))) :=
  (if_neg (not_not.2 halign)).trans ((if_neg fun h => hfull h.1).trans (dif_neg hfull))

/-- No step goes on from `FATAL` until a reset is asserted (60_exceptions.md R203). -/
theorem step_fatal_ne_next {s : State} (hm : s.mode = .fatal) (hpin : s.resetPin = false) (t : State) :
    step s ≠ .next t := by
  intro h
  obtain ⟨-, ⟨hpin', -⟩ | ⟨-, hm', -⟩ | ⟨-, hm', -⟩⟩ := step_cases h
  · simp [hpin] at hpin'
  · simp [hm] at hm'
  · simp [hm] at hm'

/-- Settles O14: the resets are recorded before `FATAL` is raised. -/
theorem initOnAFullRegistryIsFatal : Obligations.InitOnAFullRegistryIsFatal := by
  intro s port uartBase clkBase halign hfull
  refine ⟨_, exec_init_full halign (by simp [hfull]) port clkBase, ?_, fun hpin => step_fatal_ne_next rfl hpin⟩
  simp only [raiseFatal, initResets, busWrite, record, List.append_assoc]
  rfl

/-! ### Register addresses -/

theorem nodup_of_distinct {α : Type} [DecidableEq α] {xs : List α} (h : distinct xs = true) : xs.Nodup := by
  induction xs with
  | nil => exact List.nodup_nil
  | cons x xs ih =>
    simp only [distinct, Bool.and_eq_true, Bool.not_eq_true', List.contains_eq_mem, decide_eq_false_iff_not] at h
    exact List.nodup_cons.2 ⟨h.1, ih h.2⟩

/-- The eight registers, in the order of `Params.offsets`. -/
def allRegs : List Reg := [.sr, .isr, .cr, .tf, .rf, .nchar, .rxwm, .rxocc]

theorem mem_allRegs (x : Reg) : x ∈ allRegs := by cases x <;> decide

theorem offsets_eq (c : Params) : c.offsets = allRegs.map c.off := rfl

/-- What R8 says of the offsets: aligned, addresses of the bus, distinct; and a bus of at least 32 bits. -/
structure GoodOffsets (c : Params) : Prop where
  width : 32 ≤ c.addrW
  aligned : ∀ x, c.off x % 4 = 0
  bound : ∀ x, c.off x < 2 ^ c.addrW
  injective : Function.Injective c.off

theorem goodOffsets_of_wf {c : Params} (h : c.wf = true) : GoodOffsets c := by
  simp only [Params.wf, Bool.and_eq_true, decide_eq_true_eq, offsets_eq, List.all_eq_true, List.forall_mem_map,
    beq_iff_eq] at h
  obtain ⟨⟨⟨⟨⟨⟨⟨hw, -⟩, -⟩, halign⟩, hbound⟩, hdistinct⟩, -⟩, -⟩ := h
  exact ⟨hw, fun x => halign x (mem_allRegs x), fun x => hbound x (mem_allRegs x), fun x y hxy =>
    List.inj_on_of_nodup_map (nodup_of_distinct hdistinct) (mem_allRegs x) (mem_allRegs y) hxy⟩

/-- Two registers of a port share no address: their offsets are addresses of the bus, so equal sums modulo its size are
equal offsets. -/
theorem regAddr_injective {s : State} (h : s.cfg.wf = true) (p : Port) : Function.Injective (regAddr s p) := by
  intro x y hxy
  have hc := goodOffsets_of_wf h
  have hmod : s.cfg.off x ≡ s.cfg.off y [MOD 2 ^ s.cfg.addrW] := Nat.ModEq.add_left_cancel' _ hxy
  exact hc.injective (Nat.ModEq.eq_of_lt_of_lt hmod (hc.bound x) (hc.bound y))

theorem regAddr_inj {s : State} (h : s.cfg.wf = true) (p : Port) {x y : Reg} :
    regAddr s p x = regAddr s p y ↔ x = y :=
  (regAddr_injective h p).eq_iff

/-- Settles O50: an address space of at least 32 bits is a multiple of 4, so the wrap keeps the alignment. -/
theorem registerAddressesAreAlignedAndDistinct : Obligations.RegisterAddressesAreAlignedAndDistinct := by
  intro s p hwf hreg
  refine ⟨fun x => ⟨?_, busAddr_lt s _⟩, fun x y hne heq => hne (regAddr_injective hwf p heq)⟩
  have hc := goodOffsets_of_wf hwf
  have hdvd : 4 ∣ 2 ^ s.cfg.addrW := Nat.pow_dvd_pow 2 (Nat.le_trans (by decide : 2 ≤ 32) hc.width)
  rw [regAddr, busAddr, Nat.mod_mod_of_dvd _ hdvd, Nat.add_mod, (hreg p).1, hc.aligned x]

end Sys2Proof.Machine
end

section
/-! 41_packing.md R132: the cache of a fetched word empties with its upper lanes. -/

namespace Sys2Proof.Machine

theorem iterate_unpackRest (w : Word) (m : Nat) : unpackRest^[m] w = w >>> (8 * m) := by
  induction m with
  | zero => rfl
  | succ m ih => rw [Function.iterate_succ_apply', ih, unpackRest, Nat.mul_succ, BitVec.shiftRight_add]

theorem laneGet_iterate_unpackRest (w : Word) (m j : Nat) : laneGet (unpackRest^[m] w) j = laneGet w (m + j) := by
  induction m generalizing w with
  | zero => simp
  | succ m ih => rw [Function.iterate_succ_apply, ih, laneGet_unpackRest, Nat.succ_add]

/-- A word has no lane above the third. -/
theorem laneGet_of_four_le (w : Word) {j : Nat} (h : 4 ≤ j) : laneGet w j = 0 := by
  refine BitVec.eq_of_getLsbD_eq fun i hi => ?_
  rw [laneGet_getLsbD w j hi, BitVec.getLsbD_of_ge w _ (by omega)]
  exact BitVec.getLsbD_zero.symm

theorem eq_zero_iff_lanes (w : Word) : w = 0 ↔ ∀ j, laneGet w j = 0 := by
  refine ⟨fun h j => by simp [h, laneGet], fun h => BitVec.eq_of_getLsbD_eq fun i hi => ?_⟩
  have hbit := laneGet_getLsbD w (i / 8) (Nat.mod_lt i (by decide : 8 > 0))
  rw [h, Nat.div_add_mod] at hbit
  exact hbit.symm.trans (BitVec.getLsbD_zero.trans BitVec.getLsbD_zero.symm)

/-- Settles O37: an extraction moves every lane down by one, and a word is its lanes. -/
theorem cacheEmptiesWhenTheUpperLanesAreZero : Obligations.CacheEmptiesWhenTheUpperLanesAreZero := by
  intro w m _
  refine ⟨iterate_unpackRest w m, ?_, fun _ => laneGet_iterate_unpackRest w m 0⟩
  simp only [eq_zero_iff_lanes, laneGet_iterate_unpackRest]
  refine ⟨fun h j hmj _ => ?_, fun h j => ?_⟩
  · rw [← h (j - m), Nat.add_sub_cancel' hmj]
  · obtain hj | hj := Nat.lt_or_ge (m + j) 4
    · exact h (m + j) (Nat.le_add_right m j) hj
    · exact laneGet_of_four_le w hj

end Sys2Proof.Machine
end

section
/-! 42_transmit.md R58, R142, R143, R147 and 43_receive.md R170: the requests that start a transmit or a fetch. -/

namespace Sys2Proof.Machine

/-- Settles O20: the range check comes after the argument check and before the count pass. -/
theorem writeRefusesAWrappingBuffer : Obligations.WriteRefusesAWrappingBuffer := by
  intro s port p buf len h hbuf hlen hwrap
  rw [exec_write_registered h, if_neg (not_or.2 ⟨hbuf, Int.not_le.2 hlen⟩), if_pos hwrap]
  rfl

/-- Settles O22: the count pass records the reads, and the FSM starts with the count. -/
theorem writeStartsItsTransmit : Obligations.WriteStartsItsTransmit := by
  intro s port p buf len hp hbuf hlen hrange hfits
  rw [exec_write_passes hp hbuf hlen hrange, txRun_fits (charCount_writeSource hrange ▸ hfits),
    counted_writeSource hrange, charCount_writeSource hrange, writeSource_port]
  simp only [writeSource, State.setPort, PerPort.set_set]
  rfl

theorem wordCount_putc (byte : Byte) : wordCount (if byte = lf then 2 else 1) = 1 := by
  split <;> rfl

/-- Settles O23: the count pass over the staging byte records nothing, and one word holds its characters. -/
theorem putcStartsItsTransmit : Obligations.PutcStartsItsTransmit := by
  intro s port p byte hp hfits
  rw [exec_putc_registered hp, txRun_fits (charCount_putcSource s port p byte ▸ hfits), counted_putcSource,
    charCount_putcSource, putcSource_port]
  simp only [putcSource, State.setPort, PerPort.set_set, txStarted, wordCount_putc]
  rfl

theorem txPollTxrdy_eq (p : Port) (s : State) :
    txPollTxrdy p s = (regRead p .sr s).setPort p
      (if (answer s).getLsbD s.cfg.srTxrdy then { s.port p with txsub := .push } else s.port p) := by
  rw [apply_ite ((regRead p .sr s).setPort p), ← regRead_port s p .sr, setPort_port_eq]
  rfl

/-- Settles O27: one read, and a branch on its bit. -/
theorem pollTxrdyStep : Obligations.PollTxrdyStep := by
  intro s op p hprog hop htxs htxsub
  refine ⟨txPollTxrdy p s, ?_, by rw [txPollTxrdy_eq]; rfl⟩
  rw [hprog.step_eq_txStep hop]
  simp only [txStep, htxs, htxsub]

theorem exec_getc_registered {s : State} {port : PortField} {p : Port} (h : Registered s port p) (wait : Bool) :
    exec (.getc port wait) s =
      if (s.port p).rxc = 0 then
        .next ((activate .getChar port s).setPort p { s.port p with rxwait := wait, rxs := .fOvrCheck })
      else .next (extractByte p (activate .getChar port s)) := by
  simp only [exec, execGetc, resolvePort_activate, resolvePort_registered h, activate_port, PortState.cacheEmpty,
    beq_iff_eq]

theorem extractByte_eq (p : Port) (s : State) :
    extractByte p s = respond .success ((s.port p).rxc.toNat % 256)
      (s.setPort p { s.port p with rxc := (s.port p).rxc >>> 8 }) := by
  simp only [extractByte, unpackByte_toNat, unpackRest]

/-- Settles O38: the cache is the word that is answered from, or a fetch starts. -/
theorem getcDrainsTheCacheOrStartsAFetch : Obligations.GetcDrainsTheCacheOrStartsAFetch := by
  intro s port p wait hp
  refine ⟨fun hcache => ?_, fun hempty => ?_⟩
  · rw [exec_getc_registered hp, if_neg hcache, extractByte_eq]
    rfl
  · rw [exec_getc_registered hp, if_pos hempty]
    rfl

end Sys2Proof.Machine
end

section
/-! What a step can do, said once: the outcomes of accepting an instruction, of a step of a transmit and of a step of a
fetch (30_encoding.md R80; 42_transmit.md R144 to R150; 43_receive.md R171). -/

namespace Sys2Proof.Machine

/-! ### Accepting an instruction -/

/-- The state `u` from which an accepted instruction runs its transmit on port `p` (42_transmit.md R140, R142). -/
inductive StartsFrom (s : State) (p : Port) : Instr → State → Prop
  | putc (port : PortField) (byte : Byte) : StartsFrom s p (.putc port byte) (putcSource port p byte s)
  | write (port : PortField) (buf : Nat) (len : Word) (hbuf : buf ≠ 0) (hlen : 0 < signedLen len)
      (hrange : buf + len.toNat ≤ 2 ^ s.cfg.addrW) : StartsFrom s p (.write port buf len) (writeSource port p buf len s)

/-- What accepting an instruction answers. -/
inductive ExecOutcome (s : State) : Instr → State → Prop
  | answered {i : Instr} (st : Status) (d : Nat) (hd : d = 0 ∨ ∃ p, d = s.base.get p) :
      ExecOutcome s i (respond st d (activate i.op i.port s))
  | marked {i : Instr} (why : Reason) (hwhy : i.op ∈ why.ops) :
      ExecOutcome s i (refuse why (activate i.op i.port s))
  | registered (port : PortField) (uartBase clkBase : Nat) (halign : uartBase % 4 = 0) (hfree : s.nports.val < nPorts) :
      ExecOutcome s (.init port uartBase clkBase)
        (respond .success s.nports.val (registerPort uartBase (initResets uartBase (activate .init port s)) hfree))
  | full (port : PortField) (uartBase clkBase : Nat) (hfull : ¬s.nports.val < nPorts) :
      ExecOutcome s (.init port uartBase clkBase) (raiseFatal (initResets uartBase (activate .init port s)))
  | cached (port : PortField) (wait : Bool) (p : Port) (hp : Registered s port p) :
      ExecOutcome s (.getc port wait) (extractByte p (activate .getChar port s))
  | fetching (port : PortField) (wait : Bool) (p : Port) (hp : Registered s port p) (hempty : (s.port p).rxc = 0) :
      ExecOutcome s (.getc port wait)
        ((activate .getChar port s).setPort p { s.port p with rxwait := wait, rxs := .fOvrCheck })
  | tooWide {i : Instr} (p : Port) (u : State) (hp : Registered s i.port p) (hstart : StartsFrom s p i u) :
      ExecOutcome s i (refuse .ncharOverflow (counted p u))
  | started {i : Instr} (p : Port) (u : State) (hp : Registered s i.port p) (hstart : StartsFrom s p i u)
      (hfits : charCount u p ≤ 2 ^ s.cfg.ncharW - 1) :
      ExecOutcome s i ((counted p u).setPort p (txStarted (charCount u p) (u.port p)))

/-- The source of a transmit that starts: only `ACTIVE` and the source registers of the port are new. -/
theorem StartsFrom.eq {s u : State} {p : Port} {i : Instr} (h : StartsFrom s p i u) :
    ∃ src buf stg len, u = (activate i.op i.port s).setPort p
        { s.port p with txsrc := src, txbuf := buf, txstg := stg, txlen := len } ∧
      (i.op = .putChar ∧ src = .stage ∨ i.op = .write ∧ src = .mem) := by
  cases h with
  | putc port byte => exact ⟨_, _, _, _, rfl, .inl ⟨rfl, rfl⟩⟩
  | write port buf len hbuf hlen hrange => exact ⟨_, _, _, _, rfl, .inr ⟨rfl, rfl⟩⟩

theorem StartsFrom.cfg {s u : State} {p : Port} {i : Instr} (h : StartsFrom s p i u) : u.cfg = s.cfg := by
  obtain ⟨_, _, _, _, rfl, -⟩ := h.eq
  rfl

/-- A transmit whose checks passed is refused or starts. -/
theorem txRun_outcome {s t u : State} {p : Port} {i : Instr} (hp : Registered s i.port p) (hstart : StartsFrom s p i u)
    (h : txRun p u = .next t) : ExecOutcome s i t := by
  obtain hwide | hfits := Nat.lt_or_ge (2 ^ u.cfg.ncharW - 1) (charCount u p)
  · rw [txRun_too_wide hwide] at h
    cases h
    exact .tooWide p u hp hstart
  · rw [txRun_fits hfits] at h
    cases h
    exact .started p u hp hstart (hstart.cfg ▸ hfits)

/-- An instruction but INIT is answered `ERR_UNINIT`, or names a registered port (40_registry.md R101). -/
theorem exec_outcome_of_registered {s t : State} {i : Instr} (hi : i.op ≠ .init) (h : exec i s = .next t)
    (hreg : ∀ p, Registered s i.port p → ExecOutcome s i t) : ExecOutcome s i t := by
  obtain hlt | hge := Nat.lt_or_ge i.port.toNat s.nports.val
  · exact hreg ⟨i.port.toNat, by omega⟩ ⟨rfl, hlt⟩
  · rw [exec_unregistered hi hge] at h
    cases h
    exact .answered _ 0 (.inl rfl)

theorem exec_outcome {s t : State} {i : Instr} (h : exec i s = .next t) : ExecOutcome s i t := by
  cases i with
  | init port uartBase clkBase =>
    simp only [exec, execInit] at h
    split_ifs at h with halign hid hfree <;> cases h
    · exact .marked .initBaseMisaligned (List.mem_singleton.2 rfl)
    · exact .marked .initIdNotNext (List.mem_singleton.2 rfl)
    · exact .registered (s := s) port uartBase clkBase (not_not.1 halign) hfree
    · exact .full (s := s) port uartBase clkBase hfree
  | putc port byte =>
    refine exec_outcome_of_registered Op.noConfusion h fun p hp => ?_
    rw [exec_putc_registered (port := port) hp] at h
    exact txRun_outcome hp (.putc port byte) h
  | getc port wait =>
    refine exec_outcome_of_registered Op.noConfusion h fun p hp => ?_
    rw [exec_getc_registered (port := port) hp] at h
    split_ifs at h with hempty <;> cases h
    · exact .fetching port wait p hp hempty
    · exact .cached port wait p hp
  | write port buf len =>
    refine exec_outcome_of_registered Op.noConfusion h fun p hp => ?_
    rw [exec_write_registered (port := port) hp] at h
    split_ifs at h with hbad hwrap
    · cases h
      exact .answered .errInval 0 (.inl rfl)
    · cases h
      exact .marked .writeRangeWraps (List.mem_singleton.2 rfl)
    · obtain ⟨hbuf, hlen⟩ := not_or.1 hbad
      have hpos : 0 < 2 ^ s.cfg.addrW := Nat.two_pow_pos _
      exact txRun_outcome hp (.write port buf len hbuf (Int.not_le.1 hlen) (by omega)) h
  | lookup port =>
    refine exec_outcome_of_registered Op.noConfusion h fun p hp => ?_
    rw [exec_lookup_registered (port := port) hp] at h
    cases h
    exact .answered .success _ (.inr ⟨p, rfl⟩)

/-! ### Passes over the source -/

/-- A property that every source access keeps is kept by the packing of a word. -/
theorem packFrom_keeps {P : State → Prop} {p : Port} (hr : ∀ k u, P u → P (srcRead p k u))
    (hw : ∀ k v u, P u → P (srcWrite p k v u)) (n j : Nat) (w : Word) (cur : Nat) {s : State} (h : P s) :
    P (packFrom p n j w cur s).after := by
  induction n generalizing j w cur s with
  | zero => exact h
  | succ n ih =>
    refine ih _ _ _ ?_
    simp only [slotStep]
    split_ifs
    · exact hw _ _ _ (hr _ _ h)
    · exact hr _ _ h
    · exact hr _ _ h

/-- A property that every source access keeps is kept by the restore pass. -/
theorem restoreFrom_keeps {P : State → Prop} {p : Port} (hr : ∀ k u, P u → P (srcRead p k u))
    (hw : ∀ k v u, P u → P (srcWrite p k v u)) (n j : Nat) {s : State} (h : P s) : P (restoreFrom p n j s) := by
  induction n generalizing j s with
  | zero => exact h
  | succ n ih =>
    refine ih _ ?_
    simp only [restoreByte]
    split_ifs
    · exact hw _ _ _ (hr _ _ h)
    · exact hr _ _ h

theorem srcWrite_of_mem {p : Port} {s : State} (h : (s.port p).txsrc = .mem) (k : Nat) (v : Byte) :
    srcWrite p k v s = memWrite (srcAddr s p k) v s := by
  simp only [srcWrite, h]

theorem srcWrite_of_stage {p : Port} {s : State} (h : (s.port p).txsrc = .stage) (k : Nat) (v : Byte) :
    srcWrite p k v s = s.setPort p { s.port p with txstg := v } := by
  simp only [srcWrite, h]

/-- `t` is `s` after source accesses of port `p`: client memory, the staging byte and the trace may differ. -/
def AfterPass (p : Port) (s t : State) : Prop :=
  ∃ m es b, t = { s with
    mem := m, trace := s.trace ++ es, ports := s.ports.set p { s.port p with txstg := b } }

theorem AfterPass.refl (p : Port) (s : State) : AfterPass p s s :=
  ⟨s.mem, [], (s.port p).txstg, by
    rw [List.append_nil]
    exact (setPort_port_eq s p).symm⟩

theorem AfterPass.srcRead {p : Port} {s t : State} (h : AfterPass p s t) (k : Nat) : AfterPass p s (srcRead p k t) := by
  obtain ⟨m, es, b, rfl⟩ := h
  rw [srcRead_eq]
  exact ⟨m, es ++ _, b, by rw [← List.append_assoc]⟩

theorem AfterPass.srcWrite {p : Port} {s t : State} (h : AfterPass p s t) (k : Nat) (v : Byte) :
    AfterPass p s (srcWrite p k v t) := by
  cases hsrc : (t.port p).txsrc with
  | mem =>
    rw [srcWrite_of_mem hsrc]
    obtain ⟨m, es, b, rfl⟩ := h
    exact ⟨_, es ++ [_], b, by rw [← List.append_assoc]; rfl⟩
  | stage =>
    rw [srcWrite_of_stage hsrc]
    obtain ⟨m, es, b, rfl⟩ := h
    exact ⟨m, es, v, by simp [State.setPort, State.port]⟩

theorem afterPass_packFrom (p : Port) (n j : Nat) (w : Word) (cur : Nat) (s : State) :
    AfterPass p s (packFrom p n j w cur s).after :=
  packFrom_keeps (fun k _ h => h.srcRead k) (fun k v _ h => h.srcWrite k v) n j w cur (AfterPass.refl p s)

theorem afterPass_restoreFrom (p : Port) (n j : Nat) (s : State) : AfterPass p s (restoreFrom p n j s) :=
  restoreFrom_keeps (fun k _ h => h.srcRead k) (fun k v _ h => h.srcWrite k v) n j (AfterPass.refl p s)

/-! ### One step of a transmit -/

/-- The word and the cursor that `PACK` leaves, and the state after its source accesses (42_transmit.md R146). -/
def packed (p : Port) (s : State) : PackOut := packWord p (s.port p).txcur (nslots (s.port p).txc (s.port p).txi) s

theorem txPack_eq (p : Port) (s : State) :
    txPack p s = (packed p s).after.setPort p { (packed p s).after.port p with
      txword := (packed p s).word, txcur := (packed p s).cur, txsub := .pollTxrdy } := rfl

theorem inCritical_eq (q : PortState) : q.inCritical = decide (q.txs = .packAndDrain ∧ q.txsub ≠ .restore) := by
  rw [PortState.inCritical, Bool.eq_iff_iff]
  simp

/-- A read in a transmit moves its port from `q` to `q'`: only `TXS` and `TXSUB` change, the transmit goes on, no end of
the critical section is passed, and the word in hand stays (42_transmit.md R144, R147). -/
structure PollMove (q q' : PortState) : Prop where
  same : q' = { q with txs := q'.txs, txsub := q'.txsub }
  busy : q'.txs ≠ .idle
  listed : q'.txsub ∈ subsOf q'.txs
  before : q.txsub ≠ .restore
  after : q'.txsub ≠ .restore
  inCritical : q'.inCritical = q.inCritical
  inHand : inHand q' = inHand q

/-- What a step of a transmit on port `p` answers. -/
inductive TxOutcome (p : Port) (s : State) : State → Prop
  | polled (x : Reg) (hx : x = .sr ∨ x = .isr) (q : PortState) (hq : PollMove (s.port p) q) :
      TxOutcome p s ((regRead p x s).setPort p q)
  | entered (htxs : (s.port p).txs = .criticalWrite) (hsub : (s.port p).txsub = .none) :
      TxOutcome p s (txCriticalWrite p s)
  | packed (htxs : (s.port p).txs = .packAndDrain) (hsub : (s.port p).txsub = .pack) : TxOutcome p s (txPack p s)
  | pushed (htxs : (s.port p).txs = .packAndDrain) (hsub : (s.port p).txsub = .push)
      (hmore : (s.port p).txi + 1 < (s.port p).txw) : TxOutcome p s (txPush p s)
  | pushedLast (htxs : (s.port p).txs = .packAndDrain) (hsub : (s.port p).txsub = .push)
      (hlast : (s.port p).txw ≤ (s.port p).txi + 1) : TxOutcome p s (txPush p s)
  | ended (htxs : (s.port p).txs = .packAndDrain) (hsub : (s.port p).txsub = .restore) : TxOutcome p s (txRestore p s)

theorem txStep_outcome {p : Port} {s t : State} (h : txStep p s = .next t) : TxOutcome p s t := by
  obtain ⟨htxs, hsub, rfl⟩ | ⟨htxs, hsub, rfl⟩ | ⟨htxs, hsub, rfl⟩ | ⟨htxs, hsub, rfl⟩ | ⟨htxs, hsub, rfl⟩ |
    ⟨htxs, hsub, rfl⟩ | ⟨htxs, hsub, rfl⟩ := txStep_cases h
  · rw [txCheckEmpty_eq]
    refine .polled .sr (.inl rfl) _ ?_
    split_ifs <;> refine ⟨rfl, ?_, ?_, ?_, ?_, ?_, ?_⟩ <;> simp [subsOf, inCritical_eq, inHand, htxs, hsub]
  · rw [txPollTxready_eq]
    refine .polled .isr (.inr rfl) _ ?_
    split_ifs <;> refine ⟨rfl, ?_, ?_, ?_, ?_, ?_, ?_⟩ <;> simp [subsOf, inCritical_eq, inHand, htxs, hsub]
  · exact .entered htxs hsub
  · exact .packed htxs hsub
  · rw [txPollTxrdy_eq]
    refine .polled .sr (.inl rfl) _ ?_
    split_ifs <;> refine ⟨rfl, ?_, ?_, ?_, ?_, ?_, ?_⟩ <;> simp [subsOf, inCritical_eq, inHand, htxs, hsub]
  · obtain hmore | hlast := Nat.lt_or_ge ((s.port p).txi + 1) (s.port p).txw
    · exact .pushed htxs hsub hmore
    · exact .pushedLast htxs hsub hlast
  · exact .ended htxs hsub

theorem txPack_shape (p : Port) (s : State) :
    ∃ m es b w cur, txPack p s = { s with
      mem := m, trace := s.trace ++ es
      ports := s.ports.set p { s.port p with txstg := b, txword := w, txcur := cur, txsub := .pollTxrdy } } := by
  obtain ⟨m, es, b, h⟩ := afterPass_packFrom p (nslots (s.port p).txc (s.port p).txi) 0 0 (s.port p).txcur s
  refine ⟨m, es, b, (packed p s).word, (packed p s).cur, ?_⟩
  rw [txPack_eq, show (packed p s).after = _ from h]
  simp [State.setPort, State.port]

theorem txRestore_shape (p : Port) (s : State) :
    ∃ m es b, txRestore p s = { s with
      active := none, rspStatus := 0x00, rspData := 0, mem := m, trace := s.trace ++ es ++ [.rsp 0x00 0]
      ports := s.ports.set p { s.port p with txs := .idle, txsub := .none, txstg := b } } := by
  obtain ⟨m, es, b, h⟩ := afterPass_restoreFrom p (s.port p).txlen 0 s
  exact ⟨m, es, b, txRestore_eq h⟩

/-! ### One step of a fetch -/

/-- A register access of a fetch on port `p`. -/
inductive RxAccess (p : Port) (s : State) : State → Prop
  | read (x : Reg) (hx : x ∈ readsOf .getChar) : RxAccess p s (regRead p x s)
  | write (x : Reg) (v : Word) (hx : (x, v) ∈ writesOf s p .getChar) : RxAccess p s (regWrite p x v s)

/-- What a step of a fetch on port `p` answers: the one access, and then the fetch goes on with the cache as it was, or
it ends with a response. -/
inductive RxOutcome (p : Port) (s : State) : State → Prop
  | fetching (u : State) (hu : RxAccess p s u) (q : PortState) (hq : SameTx q (s.port p)) (hrxs : q.rxs ≠ .idle)
      (hrxc : q.rxc = (s.port p).rxc) : RxOutcome p s (u.setPort p q)
  | answered (u : State) (hu : RxAccess p s u) (q : PortState) (hq : SameTx q (s.port p)) (hrxs : q.rxs = .idle)
      (st : Status) (d : Nat) (hd : d < 256) : RxOutcome p s (respond st d (u.setPort p q))

theorem rxReady_outcome {p : Port} {s u : State} (hu : RxAccess p s u) {q : PortState} (hq : SameTx q (s.port p)) :
    RxOutcome p s (rxReady p (u.setPort p q)) := by
  rw [rxReady_eq, setPort_port_self, setPort_setPort]
  exact .answered u hu { q with rxc := q.rxtmp >>> 8, rxs := .idle } hq rfl .success _ (Nat.mod_lt _ (by decide))

theorem RxAccess.port {p : Port} {s u : State} (hu : RxAccess p s u) : u.port p = s.port p := by
  cases hu <;> rfl

theorem rxStep_outcome {p : Port} {s t : State} (h : rxStep p s = .next t) : RxOutcome p s t := by
  have hread {x : Reg} (hx : x ∈ readsOf .getChar) := RxAccess.read (p := p) (s := s) x hx
  have hwrite {x : Reg} {v : Word} (hx : (x, v) ∈ writesOf s p .getChar) := RxAccess.write (p := p) (s := s) x v hx
  obtain ⟨-, rfl⟩ | ⟨-, rfl⟩ | ⟨-, rfl⟩ | ⟨-, rfl⟩ | ⟨-, rfl⟩ | ⟨-, rfl⟩ | ⟨-, rfl⟩ | ⟨-, rfl⟩ | ⟨-, rfl⟩ :=
    rxStep_cases h
  · exact .fetching _ (hread (x := .sr) (by simp [readsOf])) _ rfl (by simp only; split_ifs <;> simp) rfl
  · exact .fetching _ (hwrite (x := .cr) (by simp [writesOf])) _ rfl (by simp) rfl
  · exact .fetching _ (hread (x := .sr) (by simp [readsOf])) _ rfl (by simp only; split_ifs <;> simp) rfl
  · exact rxReady_outcome (hread (x := .rf) (by simp [readsOf])) rfl
  · have hocc := hread (x := .rxocc) (by simp [readsOf])
    simp only [rxOccCheck, rxNotReady]
    split_ifs
    · exact .fetching _ hocc _ rfl (by simp) rfl
    · exact .fetching _ hocc _ rfl (by simp) rfl
    · exact .answered _ hocc { s.port p with rxs := .idle } rfl rfl .errRxNotReady 0 (by decide)
  · exact .fetching _ (hwrite (x := .cr) (by simp [writesOf])) _ rfl (by simp) rfl
  · rw [rxStaleRead_eq]
    exact .fetching _ (hread (x := .rf) (by simp [readsOf])) _ rfl (by simp) rfl
  · exact .fetching _ (hwrite (x := .cr) (by simp [writesOf])) _ rfl (by simp) rfl
  · have hrearm := hwrite (x := .rxwm) (v := s.cfg.rxwmRearm) (by simp [writesOf])
    have hready := rxReady_outcome hrearm (q := s.port p) rfl
    rwa [← hrearm.port, setPort_port_eq] at hready

/-! ### What a step of the request in progress leaves alone -/

/-- The fields that the steps of a request in progress never write. -/
structure AdvanceKeeps (s t : State) : Prop where
  cfg : t.cfg = s.cfg
  nports : t.nports = s.nports
  base : t.base = s.base
  mode : t.mode = s.mode
  refused : t.refused = s.refused
  client : t.client = s.client
  resetPin : t.resetPin = s.resetPin

theorem txStep_keeps {p : Port} {s t : State} (h : txStep p s = .next t) : AdvanceKeeps s t := by
  cases txStep_outcome h with
  | polled x hx q hq => constructor <;> rfl
  | entered htxs hsub => constructor <;> rfl
  | packed htxs hsub =>
    obtain ⟨m, es, b, w, cur, hpack⟩ := txPack_shape p s
    rw [hpack]
    constructor <;> rfl
  | pushed htxs hsub hmore => rw [txPush_next hmore]; constructor <;> rfl
  | pushedLast htxs hsub hlast => rw [txPush_last hlast]; constructor <;> rfl
  | ended htxs hsub =>
    obtain ⟨m, es, b, hrestore⟩ := txRestore_shape p s
    rw [hrestore]
    constructor <;> rfl

theorem RxAccess.keeps {p : Port} {s u : State} (hu : RxAccess p s u) : AdvanceKeeps s u := by
  cases hu <;> constructor <;> rfl

theorem rxStep_keeps {p : Port} {s t : State} (h : rxStep p s = .next t) : AdvanceKeeps s t := by
  cases rxStep_outcome h with
  | fetching u hu q hq hrxs hrxc =>
    obtain ⟨h1, h2, h3, h4, h5, h6, h7⟩ := hu.keeps
    exact ⟨h1, h2, h3, h4, h5, h6, h7⟩
  | answered u hu q hq hrxs st d hd =>
    obtain ⟨h1, h2, h3, h4, h5, h6, h7⟩ := hu.keeps
    exact ⟨h1, h2, h3, h4, h5, h6, h7⟩

theorem advance_keeps {op : Op} {port : PortField} {s t : State} (h : advance op port s = .next t) :
    AdvanceKeeps s t := by
  obtain ⟨p, -, ⟨-, htx⟩ | ⟨-, hrx⟩⟩ := advance_cases h
  · exact txStep_keeps htx
  · exact rxStep_keeps hrx

/-- Settles O8: `FATAL` is looked at before anything but the reset input, and no step of a request in progress takes
anything from the client. -/
theorem nothingIsAcceptedWhileBusyOrFatal : Obligations.NothingIsAcceptedWhileBusyOrFatal := by
  refine ⟨fun s hrefused hpin hm => ?_, fun s t hpin hbusy h => ?_⟩
  · rw [step_of_not_refused hrefused]
    simp only [cycleRun, hpin, hm]
    rfl
  · obtain ⟨-, ⟨hpin', -⟩ | ⟨-, -, hfree, -⟩ | ⟨-, -, op, port, -, hadv⟩⟩ := step_cases h
    · simp [hpin] at hpin'
    · exact absurd hfree hbusy
    · exact (advance_keeps hadv).client

end Sys2Proof.Machine
end

section
/-! 10_state.md R32 and 40_registry.md R108: what an accepted request leaves alone, and how the registry grows. -/

namespace Sys2Proof.Machine

/-! ### The frame of an accepted request -/

theorem SameRx.refl (q : PortState) : SameRx q q := rfl

theorem SameTx.refl (q : PortState) : SameTx q q := rfl

/-- The fields that no instruction changes when it is accepted. -/
structure ExecKeeps (s t : State) : Prop where
  cfg : t.cfg = s.cfg
  mem : t.mem = s.mem
  client : t.client = s.client
  answers : t.answers = s.answers
  draws : t.draws = s.draws
  resetPin : t.resetPin = s.resetPin

theorem exec_keeps {i : Instr} {s t : State} (h : exec i s = .next t) : ExecKeeps s t := by
  cases exec_outcome h with
  | tooWide p u hp hstart =>
    obtain ⟨_, _, _, _, rfl, -⟩ := hstart.eq
    constructor <;> rfl
  | started p u hp hstart hfits =>
    obtain ⟨_, _, _, _, rfl, -⟩ := hstart.eq
    constructor <;> rfl
  | _ => constructor <;> rfl

/-- Only INIT writes the registry and `MODE`. -/
theorem exec_keeps_registry {i : Instr} {s t : State} (h : exec i s = .next t) (hi : i.op ≠ .init) :
    t.nports = s.nports ∧ t.base = s.base ∧ t.mode = s.mode := by
  cases exec_outcome h with
  | registered port uartBase clkBase halign hfree => exact absurd rfl hi
  | full port uartBase clkBase hfull => exact absurd rfl hi
  | tooWide p u hp hstart =>
    obtain ⟨_, _, _, _, rfl, -⟩ := hstart.eq
    exact ⟨rfl, rfl, rfl⟩
  | started p u hp hstart hfits =>
    obtain ⟨_, _, _, _, rfl, -⟩ := hstart.eq
    exact ⟨rfl, rfl, rfl⟩
  | _ => exact ⟨rfl, rfl, rfl⟩

/-- Only PUT_CHAR and WRITE are refused for their count. -/
theorem StartsFrom.op_mem_ncharOverflow {s u : State} {p : Port} {i : Instr} (h : StartsFrom s p i u) :
    i.op ∈ Reason.ops .ncharOverflow := by
  cases h <;> simp [Reason.ops, Instr.op]

/-- The mark of a refusal is set by a request that may refuse for that reason, before any event but the reads of a count
pass, or it is as before. -/
theorem exec_refused {i : Instr} {s t : State} (h : exec i s = .next t) :
    t.refused = s.refused ∨ ∃ why, t.refused = some why ∧ i.op ∈ why.ops ∧
      ∃ es : List Event, t.trace = s.trace ++ es ∧ ∀ e ∈ es, e.isMem = true := by
  cases exec_outcome h with
  | marked why hwhy => exact .inr ⟨why, rfl, hwhy, [], (List.append_nil _).symm, by simp⟩
  | tooWide p u hp hstart =>
    refine .inr ⟨.ncharOverflow, rfl, hstart.op_mem_ncharOverflow, ?_⟩
    obtain ⟨_, _, _, _, rfl, -⟩ := hstart.eq
    refine ⟨_, rfl, fun e he => ?_⟩
    obtain ⟨k, -, hk⟩ := List.mem_flatMap.1 he
    unfold srcReadEvents at hk
    split at hk
    · rw [List.mem_singleton.1 hk]
      rfl
    · simp at hk
  | started p u hp hstart hfits =>
    obtain ⟨_, _, _, _, rfl, -⟩ := hstart.eq
    exact .inl rfl
  | _ => exact .inl rfl

theorem port_ne_of_val_ne {s : State} {port : PortField} {p r : Port} (hp : Registered s port p)
    (hr : r.val ≠ port.toNat) : r ≠ p := fun h => hr (h ▸ hp.1.symm)

/-- Every port but the one an instruction names keeps its registers. -/
theorem exec_other_port {i : Instr} {s t : State} (h : exec i s = .next t) {r : Port} (hr : r.val ≠ i.port.toNat) :
    t.port r = s.port r := by
  cases exec_outcome h with
  | cached port wait p hp => exact setPort_port_ne _ _ (port_ne_of_val_ne hp hr)
  | fetching port wait p hp hempty => exact setPort_port_ne _ _ (port_ne_of_val_ne hp hr)
  | tooWide p u hp hstart =>
    obtain ⟨_, _, _, _, rfl, -⟩ := hstart.eq
    exact setPort_port_ne _ _ (port_ne_of_val_ne hp hr)
  | started p u hp hstart hfits =>
    have hne := port_ne_of_val_ne hp hr
    obtain ⟨_, _, _, _, rfl, -⟩ := hstart.eq
    exact (setPort_port_ne _ _ hne).trans (setPort_port_ne _ _ hne)
  | _ => rfl

/-- INIT and LOOKUP write no register of a port. -/
theorem exec_keeps_ports {i : Instr} {s t : State} (h : exec i s = .next t) (hi : i.op = .init ∨ i.op = .lookup) :
    t.ports = s.ports := by
  cases exec_outcome h with
  | cached port wait p hp => simp [Instr.op] at hi
  | fetching port wait p hp hempty => simp [Instr.op] at hi
  | tooWide p u hp hstart => cases hstart <;> simp [Instr.op] at hi
  | started p u hp hstart hfits => cases hstart <;> simp [Instr.op] at hi
  | _ => rfl

/-- Settles O44: each clause is a frame of `exec`, the ones about the own port being R32. -/
theorem acceptedRequestsKeepTheirFrame : Obligations.AcceptedRequestsKeepTheirFrame := by
  intro i s t h
  obtain ⟨hcfg, hmem, hclient, hanswers, hdraws, hpin⟩ := exec_keeps h
  obtain ⟨htx, hrx, -⟩ := exec_writesOnlyAs h
  refine ⟨hcfg, hmem, hclient, hanswers, hdraws, hpin, exec_keeps_registry h, ?_, fun r => exec_other_port h,
    fun r hop => ?_, fun r hop => ?_, exec_keeps_ports h⟩
  · exact (exec_refused h).imp_right fun ⟨why, hwhy, hmem, _⟩ => ⟨why, hwhy, hmem⟩
  · exact (hrx r).resolve_right fun ⟨_, hgetc⟩ => by simp [hgetc] at hop
  · exact (htx r).resolve_right fun ⟨_, hsend⟩ => by simp [hop] at hsend

/-! ### The mark of a refusal -/

/-- A step of a free block that sets the mark accepts the request that is refused. -/
theorem takeClient_refused {s t : State} (ha : s.active = none) (hs : s.refused = none) (h : takeClient s = .next t)
    (ht : t.refused ≠ none) :
    ∃ i why, accepted s = some i ∧ t.refused = some why ∧ i.op ∈ why.ops ∧
      ∃ es : List Event, t.trace = s.trace ++ es ∧ ∀ e ∈ es, e.isMem = true := by
  obtain ⟨-, rfl⟩ | ⟨a, v, rest, -, rfl⟩ | ⟨r, rest, why, -, -, rfl⟩ | ⟨r, rest, i, hc, hd, he⟩ := takeClient_cases h
  · exact absurd hs ht
  · exact absurd hs ht
  · exact absurd hs ht
  · obtain hsame | ⟨why, hwhy⟩ := exec_refused he
    · exact absurd (hsame.trans hs) ht
    · exact ⟨i, why, by simp only [accepted, ha, hc, hd], hwhy⟩

/-- Settles O9: only accepting a request can set the mark, and no rule looks behind it. -/
theorem refusedRunsGoNoFurther : Obligations.RefusedRunsGoNoFurther := by
  refine ⟨fun s why hs => by simp only [step, cycle, hs], fun s t h => ?_⟩
  obtain ⟨hs, ⟨-, rfl⟩ | ⟨-, -, ha, htake⟩ | ⟨-, -, op, port, ha, hadv⟩⟩ := step_cases h
  · exact ⟨hs, fun ht => absurd hs ht, fun ht => absurd hs ht⟩
  · refine ⟨hs, fun ht => ?_, fun ht => ?_⟩
    · obtain ⟨_, _, -, -, -, hevents⟩ := takeClient_refused ha hs htake ht
      exact hevents
    · obtain ⟨i, why, hacc, hwhy, hop, -⟩ := takeClient_refused ha hs htake ht
      exact ⟨i, why, hacc, hwhy, hop⟩
  · have hkept := (advance_keeps hadv).refused.trans hs
    exact ⟨hs, fun ht => absurd hkept ht, fun ht => absurd hkept ht⟩

/-! ### The registry -/

/-- A step that is no reset leaves the registry alone, or adds the base of the INIT it accepts at its end. -/
inductive RegistryStep (s t : State) : Prop
  | kept (hn : t.nports = s.nports) (hb : t.base = s.base)
  | grown (port : PortField) (uartBase clkBase : Nat) (hacc : accepted s = some (.init port uartBase clkBase))
      (halign : uartBase % 4 = 0) (hfree : s.nports.val < nPorts) (hn : t.nports.val = s.nports.val + 1)
      (hb : t.base = s.base.set ⟨s.nports.val, hfree⟩ uartBase)

theorem exec_registryStep {s u t : State} {i : Instr} (hacc : accepted s = some i) (hn : u.nports = s.nports)
    (hb : u.base = s.base) (h : exec i u = .next t) : RegistryStep s t := by
  by_cases hi : i.op = .init
  · cases exec_outcome h with
    | registered port uartBase clkBase halign hfree =>
      have hfree' : s.nports.val < nPorts := hn ▸ hfree
      refine .grown port uartBase clkBase hacc halign hfree' ?_ ?_
      · change u.nports.val + 1 = s.nports.val + 1
        rw [hn]
      · change u.base.set ⟨u.nports.val, hfree⟩ uartBase = _
        simp only [hb, hn]
    | cached port wait p hp => simp [Instr.op] at hi
    | fetching port wait p hp hempty => simp [Instr.op] at hi
    | tooWide p v hp hstart => cases hstart <;> simp [Instr.op] at hi
    | started p v hp hstart hfits => cases hstart <;> simp [Instr.op] at hi
    | _ => exact .kept hn hb
  · obtain ⟨hn', hb', -⟩ := exec_keeps_registry h hi
    exact .kept (hn'.trans hn) (hb'.trans hb)

theorem step_registry {s t : State} (hpin : s.resetPin = false) (h : step s = .next t) : RegistryStep s t := by
  obtain ⟨-, ⟨hpin', -⟩ | ⟨-, -, ha, htake⟩ | ⟨-, -, op, port, ha, hadv⟩⟩ := step_cases h
  · simp [hpin] at hpin'
  · obtain ⟨-, rfl⟩ | ⟨a, v, rest, -, rfl⟩ | ⟨r, rest, why, -, -, rfl⟩ | ⟨r, rest, i, hc, hd, he⟩ :=
      takeClient_cases htake
    · exact .kept rfl rfl
    · exact .kept rfl rfl
    · exact .kept rfl rfl
    · have hacc : accepted s = some i := by simp only [accepted, ha, hc, hd]
      exact exec_registryStep (u := { s with client := rest }) hacc rfl rfl he
  · exact .kept (advance_keeps hadv).nports (advance_keeps hadv).base

/-- Settles O18: the entry added is the one after the registered ones. -/
theorem registryGrowsOnlyAtItsEnd : Obligations.RegistryGrowsOnlyAtItsEnd := by
  intro s t hpin h
  cases step_registry hpin h with
  | kept hn hb => exact ⟨by omega, by omega, fun p _ => by rw [hb], fun _ => hb⟩
  | grown port uartBase clkBase hacc halign hfree hn hb =>
    refine ⟨by omega, by omega, fun p hp => ?_, fun heq => ?_⟩
    · rw [hb]
      exact PerPort.get_set_ne _ _ fun heq => by simp [heq] at hp
    · rw [heq] at hn
      omega

/-- A decoded instruction is well formed: its operands have lost the bits above the address width (30_encoding.md
R70). -/
theorem wf_of_decode {addrW : Nat} {r : Request} {i : Instr} (h : decode addrW r = .legal i) : i.wf addrW = true := by
  have hpos : 0 < 2 ^ addrW := Nat.two_pow_pos addrW
  obtain ⟨op, -, rfl⟩ := decode_eq_legal_iff.1 h
  cases op with
  | init => simp [fieldsOf, Instr.wf, fitsAddr, Nat.mod_lt _ hpos]
  | putChar => rfl
  | getChar => rfl
  | write =>
    have hlen : r.b % 2 ^ addrW % 2 ^ 32 < 2 ^ addrW :=
      Nat.lt_of_le_of_lt (Nat.mod_le _ _) (Nat.mod_lt _ hpos)
    simp only [fieldsOf, Instr.wf, fitsAddr, BitVec.toNat_ofNat, Bool.and_eq_true, decide_eq_true_eq]
    exact ⟨Nat.mod_lt _ hpos, hlen⟩
  | lookup => rfl

theorem wf_of_accepted {s : State} {i : Instr} (h : accepted s = some i) : i.wf s.cfg.addrW = true := by
  unfold accepted at h
  split at h
  · split at h
    · next hd =>
      cases h
      exact wf_of_decode hd
    · simp at h
  · simp at h

/-- No step changes the parameters. -/
theorem step_cfg {s t : State} (h : step s = .next t) : t.cfg = s.cfg := by
  obtain ⟨-, ⟨-, rfl⟩ | ⟨-, -, -, htake⟩ | ⟨-, -, op, port, -, hadv⟩⟩ := step_cases h
  · rfl
  · obtain ⟨-, rfl⟩ | ⟨a, v, rest, -, rfl⟩ | ⟨r, rest, why, -, -, rfl⟩ | ⟨r, rest, i, -, -, he⟩ :=
      takeClient_cases htake
    · rfl
    · rfl
    · rfl
    · exact (exec_keeps he).cfg
  · exact (advance_keeps hadv).cfg

/-- Settles O53: the base of an accepted INIT is an aligned address of the bus, and it becomes the last entry. -/
theorem stepsKeepTheRegistry : Obligations.StepsKeepTheRegistry := by
  intro s t hreg h p
  obtain ⟨halign, hbound, hzero⟩ := hreg p
  rw [step_cfg h]
  cases hpin : s.resetPin with
  | true =>
    rw [step_eq_resetBlock hpin h]
    simp
  | false =>
    cases step_registry hpin h with
    | kept hn hb =>
      rw [hn, hb]
      exact ⟨halign, hbound, hzero⟩
    | grown port uartBase clkBase hacc halign' hfree hn hb =>
      have hwf := wf_of_accepted hacc
      simp only [Instr.wf, fitsAddr, Bool.and_eq_true, decide_eq_true_eq] at hwf
      rw [hn, hb, PerPort.get_set]
      split_ifs with hp
      · subst hp
        exact ⟨halign', hwf.1, fun hle => by simp at hle⟩
      · exact ⟨halign, hbound, fun hle => hzero (by omega)⟩

end Sys2Proof.Machine
end

section
/-! 20_memory.md R50, R57: client memory stays canonical and inside the address space. -/

namespace Sys2Proof.Machine

/-- Client memory is canonical and lies below `2 ^ addrW`. -/
def GoodMemory (addrW : Nat) (m : Memory) : Prop := m.wf = true ∧ ∀ c ∈ m, c.1 < 2 ^ addrW

theorem GoodMemory.write {addrW : Nat} {m : Memory} (h : GoodMemory addrW m) {a : Nat} (ha : a < 2 ^ addrW) (v : Byte) :
    GoodMemory addrW (m.write a v) :=
  ⟨Memory.wf_write h.1, fun c hc => (Memory.write_addr hc).elim (fun heq => heq ▸ ha) (h.2 c)⟩

theorem srcWrite_goodMemory {p : Port} (k : Nat) (v : Byte) {u : State} (h : GoodMemory u.cfg.addrW u.mem) :
    GoodMemory (srcWrite p k v u).cfg.addrW (srcWrite p k v u).mem := by
  rw [srcWrite_cfg]
  unfold srcWrite
  split
  · exact h.write (busAddr_lt u _) v
  · exact h

theorem srcRead_goodMemory {p : Port} (k : Nat) {u : State} (h : GoodMemory u.cfg.addrW u.mem) :
    GoodMemory (srcRead p k u).cfg.addrW (srcRead p k u).mem := by
  simpa using h

theorem txStep_goodMemory {p : Port} {s t : State} (hm : GoodMemory s.cfg.addrW s.mem) (h : txStep p s = .next t) :
    GoodMemory t.cfg.addrW t.mem := by
  cases txStep_outcome h with
  | polled x hx q hq => exact hm
  | entered htxs hsub => exact hm
  | packed htxs hsub =>
    exact packFrom_keeps (P := fun u => GoodMemory u.cfg.addrW u.mem) (fun k _ => srcRead_goodMemory k)
      (fun k v _ => srcWrite_goodMemory k v) _ _ _ _ hm
  | pushed htxs hsub hmore =>
    rw [txPush_next hmore]
    exact hm
  | pushedLast htxs hsub hlast =>
    rw [txPush_last hlast]
    exact hm
  | ended htxs hsub =>
    exact restoreFrom_keeps (P := fun u => GoodMemory u.cfg.addrW u.mem) (fun k _ => srcRead_goodMemory k)
      (fun k v _ => srcWrite_goodMemory k v) _ _ hm

theorem RxAccess.mem {p : Port} {s u : State} (hu : RxAccess p s u) : u.mem = s.mem := by
  cases hu <;> rfl

/-- No step of a fetch touches client memory. -/
theorem rxStep_mem {p : Port} {s t : State} (h : rxStep p s = .next t) : t.mem = s.mem := by
  cases rxStep_outcome h with
  | fetching u hu q hq hrxs hrxc => exact hu.mem
  | answered u hu q hq hrxs st d hd => exact hu.mem

/-- Settles O52: every write is at an address of the bus. -/
theorem stepsKeepMemoryCanonical : Obligations.StepsKeepMemoryCanonical := by
  intro s t hm h
  obtain ⟨-, ⟨-, rfl⟩ | ⟨-, -, -, htake⟩ | ⟨-, -, op, port, -, hadv⟩⟩ := step_cases h
  · exact hm
  · obtain ⟨-, rfl⟩ | ⟨a, v, rest, -, rfl⟩ | ⟨r, rest, why, -, -, rfl⟩ | ⟨r, rest, i, -, -, he⟩ :=
      takeClient_cases htake
    · exact hm
    · exact GoodMemory.write hm (busAddr_lt s a) v
    · exact hm
    · obtain ⟨hcfg, hmem, -⟩ := exec_keeps he
      rw [MemInv, hcfg, hmem]
      exact hm
  · obtain ⟨p, -, ⟨-, htx⟩ | ⟨-, hrx⟩⟩ := advance_cases hadv
    · exact txStep_goodMemory hm htx
    · rw [MemInv, rxStep_mem hrx, (rxStep_keeps hrx).cfg]
      exact hm

end Sys2Proof.Machine
end

section
/-! 10_state.md R22, R23, R29, R30: `MODE`, `ACTIVE`, the mark of a refusal and the FSM registers agree, and then a step
always has a rule (60_exceptions.md R200, R203, R206). -/

namespace Sys2Proof.Machine

/-! ### The control invariant, case by case -/

theorem activeOk_free {s : State} (hm : s.mode = .run) (hr : s.refused = none) (ha : s.active = none) :
    activeOk s = true ↔ ∀ p : Port, Quiet (s.port p) := by
  simp only [activeOk, hm, hr, ha, decide_eq_true_eq]

theorem activeOk_busy {s : State} {op : Op} {port : PortField} (hm : s.mode = .run) (hr : s.refused = none)
    (ha : s.active = some (op, port)) :
    activeOk s = true ↔ port.toNat < s.nports.val ∧
      ∀ p : Port, if p.val = port.toNat then Serving op (s.port p) = true else Quiet (s.port p) := by
  simp only [activeOk, hm, hr, ha, Bool.and_eq_true, decide_eq_true_eq]

theorem activeOk_marked {s : State} {why : Reason} {op : Op} {port : PortField} (hm : s.mode = .run)
    (hr : s.refused = some why) (ha : s.active = some (op, port)) :
    activeOk s = true ↔ op ∈ why.ops ∧ ∀ p : Port, Quiet (s.port p) := by
  simp only [activeOk, hm, hr, ha, Bool.and_eq_true, List.contains_iff_mem, decide_eq_true_eq]

theorem activeOk_fatal {s : State} {port : PortField} (hm : s.mode = .fatal) (hr : s.refused = none)
    (ha : s.active = some (.init, port)) : activeOk s = true ↔ s.nports = 4 ∧ ∀ p : Port, Quiet (s.port p) := by
  simp only [activeOk, hm, hr, ha, Bool.and_eq_true, beq_iff_eq, decide_eq_true_eq]

/-- Every port's sub-state is one that R30 lists. -/
def ListedSubs (s : State) : Prop := ∀ p : Port, (s.port p).txsub ∈ subsOf (s.port p).txs

/-- The port of the request in progress serves it, and every other port is quiet. -/
theorem activeOk_busy_iff {s : State} {op : Op} {port : PortField} {p : Port} (hm : s.mode = .run)
    (hr : s.refused = none) (ha : s.active = some (op, port)) (hp : Registered s port p) :
    activeOk s = true ↔ Serving op (s.port p) = true ∧ ∀ r : Port, r ≠ p → Quiet (s.port r) := by
  have hval (r : Port) : r.val = port.toNat ↔ r = p := by rw [hp.1, Fin.ext_iff]
  rw [activeOk_busy hm hr ha]
  simp only [hval]
  refine ⟨fun h => ⟨by simpa using h.2 p, fun r hne => by simpa [hne] using h.2 r⟩, fun h => ⟨hp.1 ▸ hp.2, fun r => ?_⟩⟩
  split_ifs with hr
  · exact hr ▸ h.1
  · exact h.2 r hr

theorem controlInv_free {s : State} (hm : s.mode = .run) (hr : s.refused = none) (ha : s.active = none)
    (hquiet : ∀ p : Port, Quiet (s.port p)) (hsub : ListedSubs s) : ControlInv s :=
  ⟨(activeOk_free hm hr ha).2 hquiet, hsub⟩

theorem controlInv_busy {s : State} {op : Op} {port : PortField} {p : Port} (hm : s.mode = .run) (hr : s.refused = none)
    (ha : s.active = some (op, port)) (hp : Registered s port p) (hserv : Serving op (s.port p) = true)
    (hquiet : ∀ r : Port, r ≠ p → Quiet (s.port r)) (hsub : ListedSubs s) : ControlInv s :=
  ⟨(activeOk_busy_iff hm hr ha hp).2 ⟨hserv, hquiet⟩, hsub⟩

theorem controlInv_marked {s : State} {why : Reason} {op : Op} {port : PortField} (hm : s.mode = .run)
    (hr : s.refused = some why) (ha : s.active = some (op, port)) (hop : op ∈ why.ops)
    (hquiet : ∀ p : Port, Quiet (s.port p)) (hsub : ListedSubs s) : ControlInv s :=
  ⟨(activeOk_marked hm hr ha).2 ⟨hop, hquiet⟩, hsub⟩

theorem controlInv_fatal {s : State} {port : PortField} (hm : s.mode = .fatal) (hr : s.refused = none)
    (ha : s.active = some (.init, port)) (hfull : s.nports = 4) (hquiet : ∀ p : Port, Quiet (s.port p))
    (hsub : ListedSubs s) : ControlInv s :=
  ⟨(activeOk_fatal hm hr ha).2 ⟨hfull, hquiet⟩, hsub⟩

/-! ### The registers of one port after an update -/

theorem port_of_set {s t : State} {p : Port} {q : PortState} (h : t.ports = s.ports.set p q) : t.port p = q := by
  rw [State.port, h, PerPort.get_set_self]

theorem SameTx.txs {q r : PortState} (h : SameTx q r) : q.txs = r.txs := by
  change (withRxOf q r).txs = r.txs
  rw [h]

theorem SameTx.txsub {q r : PortState} (h : SameTx q r) : q.txsub = r.txsub := by
  change (withRxOf q r).txsub = r.txsub
  rw [h]

theorem Serving.send {op : Op} (hop : op = .putChar ∨ op = .write) {q : PortState} :
    Serving op q = true ↔ q.txs ≠ .idle ∧ q.rxs = .idle ∧ q.txsrc = if op = .putChar then .stage else .mem := by
  obtain rfl | rfl := hop <;> simp [Serving, and_assoc]

theorem Serving.getChar {q : PortState} :
    Serving .getChar q = true ↔ q.txs = .idle ∧ q.rxs ≠ .idle ∧ q.rxc = 0 := by
  simp [Serving, and_assoc]

/-! ### A step of the request in progress -/

/-- A request goes on and its port serves it, or it is answered and its port is quiet. -/
structure GoesOnOrEnds (op : Op) (p : Port) (s t : State) : Prop where
  serves : t.active = s.active ∧ Serving op (t.port p) = true ∨ t.active = none ∧ Quiet (t.port p)
  listed : (t.port p).txsub ∈ subsOf (t.port p).txs

theorem txStep_goesOnOrEnds {op : Op} {p : Port} {s t : State} (hop : op = .putChar ∨ op = .write)
    (hs : Serving op (s.port p) = true) (h : txStep p s = .next t) : GoesOnOrEnds op p s t := by
  obtain ⟨-, hrxs, hsrc⟩ := (Serving.send hop).1 hs
  have hserve {q : PortState} (htxs : q.txs ≠ .idle) (hrx : q.rxs = (s.port p).rxs)
      (hsame : q.txsrc = (s.port p).txsrc) : Serving op q = true :=
    (Serving.send hop).2 ⟨htxs, hrx.trans hrxs, hsame.trans hsrc⟩
  cases txStep_outcome h with
  | polled x hx q hq =>
    have hport : ((regRead p x s).setPort p q).port p = q := setPort_port_self _ _ _
    have hsame := hq.same
    refine ⟨.inl ⟨rfl, ?_⟩, ?_⟩ <;> rw [hport]
    · exact hserve hq.busy (by rw [hsame]) (by rw [hsame])
    · exact hq.listed
  | entered htxs hsub =>
    rw [txCriticalWrite_eq]
    refine ⟨.inl ⟨rfl, ?_⟩, ?_⟩ <;> rw [port_of_set rfl]
    · exact hserve (by simp) rfl rfl
    · simp [subsOf]
  | packed htxs hsub =>
    obtain ⟨m, es, b, w, cur, hpack⟩ := txPack_shape p s
    rw [hpack]
    refine ⟨.inl ⟨rfl, ?_⟩, ?_⟩ <;> rw [port_of_set rfl]
    · exact hserve (by simp [htxs]) rfl rfl
    · simp [subsOf, htxs]
  | pushed htxs hsub hmore =>
    rw [txPush_next hmore]
    refine ⟨.inl ⟨rfl, ?_⟩, ?_⟩ <;> rw [port_of_set rfl]
    · exact hserve (by simp [htxs]) rfl rfl
    · simp [subsOf, htxs]
  | pushedLast htxs hsub hlast =>
    rw [txPush_last hlast]
    refine ⟨.inl ⟨rfl, ?_⟩, ?_⟩ <;> rw [port_of_set rfl]
    · exact hserve (by simp [htxs]) rfl rfl
    · simp [subsOf, htxs]
  | ended htxs hsub =>
    obtain ⟨m, es, b, hrestore⟩ := txRestore_shape p s
    rw [hrestore]
    refine ⟨.inr ⟨rfl, ?_⟩, ?_⟩ <;> rw [port_of_set rfl]
    · exact ⟨rfl, hrxs⟩
    · simp [subsOf]

theorem RxAccess.active {p : Port} {s u : State} (hu : RxAccess p s u) : u.active = s.active := by
  cases hu <;> rfl

theorem rxStep_goesOnOrEnds {p : Port} {s t : State} (hs : Serving .getChar (s.port p) = true)
    (hsub : (s.port p).txsub ∈ subsOf (s.port p).txs) (h : rxStep p s = .next t) : GoesOnOrEnds .getChar p s t := by
  obtain ⟨htxs, -, hrxc⟩ := Serving.getChar.1 hs
  cases rxStep_outcome h with
  | fetching u hu q hq hrxs hcache =>
    refine ⟨.inl ⟨hu.active, ?_⟩, ?_⟩ <;> rw [setPort_port_self]
    · exact Serving.getChar.2 ⟨hq.txs.trans htxs, hrxs, hcache.trans hrxc⟩
    · rw [hq.txs, hq.txsub]
      exact hsub
  | answered u hu q hq hrxs st d hd =>
    refine ⟨.inr ⟨rfl, ?_⟩, ?_⟩ <;> rw [respond_port, setPort_port_self]
    · exact ⟨hq.txs.trans htxs, hrxs⟩
    · rw [hq.txs, hq.txsub]
      exact hsub

/-- A step of the request in progress on port `p` keeps every other port. -/
theorem advance_other_port {op : Op} {port : PortField} {p r : Port} {s t : State} (hp : Registered s port p)
    (h : advance op port s = .next t) (hr : r ≠ p) : t.port r = s.port r := by
  obtain ⟨p', hp', ⟨-, htx⟩ | ⟨-, hrx⟩⟩ := advance_cases h
  all_goals obtain rfl : p' = p := Fin.ext (hp'.1.symm.trans hp.1)
  · exact (txStep_changesOnlyAt htx).other r hr
  · exact (rxStep_changesOnlyAt hrx).other r hr

theorem advance_controlInv {op : Op} {port : PortField} {s t : State} (hs : ControlInv s) (hm : s.mode = .run)
    (hr : s.refused = none) (ha : s.active = some (op, port)) (h : advance op port s = .next t) : ControlInv t := by
  obtain ⟨p, hp, hfsm⟩ := advance_cases h
  obtain ⟨hserv, hquiet⟩ := (activeOk_busy_iff hm hr ha hp).1 hs.1
  have hgoes : GoesOnOrEnds op p s t := by
    obtain ⟨hop, htx⟩ | ⟨rfl, hrx⟩ := hfsm
    · exact txStep_goesOnOrEnds hop hserv htx
    · exact rxStep_goesOnOrEnds hserv (hs.2 p) hrx
  obtain ⟨-, hn, -, hm', hr', -, -⟩ := advance_keeps h
  have hother {r : Port} (hne : r ≠ p) : Quiet (t.port r) := advance_other_port hp h hne ▸ hquiet r hne
  have hlisted : ListedSubs t := fun r => by
    by_cases hne : r = p
    · exact hne ▸ hgoes.listed
    · rw [advance_other_port hp h hne]
      exact hs.2 r
  obtain ⟨hact, hserv'⟩ | ⟨hact, hquiet'⟩ := hgoes.serves
  · exact controlInv_busy (hm'.trans hm) (hr'.trans hr) (hact.trans ha) ⟨hp.1, hn ▸ hp.2⟩ hserv' (fun r => hother)
      hlisted
  · refine controlInv_free (hm'.trans hm) (hr'.trans hr) hact (fun r => ?_) hlisted
    by_cases hne : r = p
    · exact hne ▸ hquiet'
    · exact hother hne

/-! ### Accepting a request -/

@[simp] theorem counted_port (p r : Port) (s : State) : (counted p s).port r = s.port r := rfl

/-- A free block with quiet ports accepts a request into a state that keeps the control invariant. -/
theorem exec_controlInv {i : Instr} {s t : State} (hm : s.mode = .run) (hr : s.refused = none)
    (hquiet : ∀ p : Port, Quiet (s.port p)) (hsub : ListedSubs s) (h : exec i s = .next t) : ControlInv t := by
  cases exec_outcome h with
  | answered st d hd => exact controlInv_free hm hr rfl hquiet hsub
  | marked why hwhy => exact controlInv_marked hm rfl rfl hwhy hquiet hsub
  | registered port uartBase clkBase halign hfree => exact controlInv_free hm hr rfl hquiet hsub
  | full port uartBase clkBase hfull =>
    have hn : s.nports = 4 := Fin.ext (Nat.le_antisymm (Nat.le_of_lt_succ s.nports.isLt) (Nat.not_lt.1 hfull))
    exact controlInv_fatal rfl hr rfl hn hquiet hsub
  | cached port wait p hp =>
    have hport (r : Port) : (extractByte p (activate .getChar port s)).port r =
        if r = p then { s.port p with rxc := unpackRest (s.port p).rxc } else s.port r := setPort_port _ _ _ _
    refine controlInv_free hm hr rfl (fun r => ?_) (fun r => ?_) <;> rw [hport] <;> split_ifs with hrp
    · exact hquiet p
    · exact hquiet r
    · exact hsub p
    · exact hsub r
  | fetching port wait p hp hempty =>
    refine controlInv_busy hm hr rfl hp ?_ (fun r hne => ?_) (fun r => ?_)
    · rw [setPort_port_self]
      exact Serving.getChar.2 ⟨(hquiet p).1, by simp, hempty⟩
    · rw [setPort_port_ne _ _ hne]
      exact hquiet r
    · rw [setPort_port]
      split_ifs
      · exact hsub p
      · exact hsub r
  | tooWide p u hp hstart =>
    have hop := hstart.op_mem_ncharOverflow
    obtain ⟨src, buf, stg, len, rfl, -⟩ := hstart.eq
    have hport (r : Port) (x : PortState) : (refuse .ncharOverflow
        (counted p ((activate i.op i.port s).setPort p x))).port r = if r = p then x else s.port r :=
      setPort_port _ _ _ _
    refine controlInv_marked hm rfl rfl hop (fun r => ?_) (fun r => ?_) <;> rw [hport] <;> split_ifs
    · exact hquiet p
    · exact hquiet r
    · exact hsub p
    · exact hsub r
  | started p u hp hstart hfits =>
    obtain ⟨src, buf, stg, len, rfl, hsrc⟩ := hstart.eq
    have hop : i.op = .putChar ∨ i.op = .write := hsrc.imp And.left And.left
    refine controlInv_busy hm hr rfl hp ?_ (fun r hne => ?_) (fun r => ?_)
    · rw [setPort_port_self, setPort_port_self]
      refine (Serving.send hop).2 ⟨by simp [txStarted], (hquiet p).2, ?_⟩
      obtain ⟨ho, rfl⟩ | ⟨ho, rfl⟩ := hsrc <;> rw [ho] <;> rfl
    · rw [setPort_port_ne _ _ hne, counted_port, setPort_port_ne _ _ hne]
      exact hquiet r
    · by_cases hne : r = p
      · rw [hne, setPort_port_self]
        simp [txStarted, subsOf]
      · rw [setPort_port_ne _ _ hne, counted_port, setPort_port_ne _ _ hne]
        exact hsub r

/-- After reset every port is quiet. -/
theorem controlInv_of_reset_ports {s : State} (hm : s.mode = .run) (hr : s.refused = none) (ha : s.active = none)
    (hports : ∀ p : Port, s.port p = PortState.reset) : ControlInv s := by
  refine controlInv_free hm hr ha (fun p => ?_) (fun p => ?_) <;> rw [hports p]
  · exact ⟨rfl, rfl⟩
  · simp [PortState.reset, subsOf]

/-- Settles O54: by the cases of a step. -/
theorem stepsKeepControl : Obligations.StepsKeepControl := by
  intro s t hs h
  obtain ⟨hr, ⟨-, rfl⟩ | ⟨-, hm, ha, htake⟩ | ⟨-, hm, op, port, ha, hadv⟩⟩ := step_cases h
  · exact controlInv_of_reset_ports rfl hr rfl (resetBlock_port s)
  · have hquiet := (activeOk_free hm hr ha).1 hs.1
    obtain ⟨-, rfl⟩ | ⟨a, v, rest, -, rfl⟩ | ⟨r, rest, why, -, -, rfl⟩ | ⟨r, rest, i, -, -, he⟩ :=
      takeClient_cases htake
    · exact hs
    · exact controlInv_free hm hr ha hquiet hs.2
    · exact controlInv_free hm hr rfl hquiet hs.2
    · exact exec_controlInv (s := { s with client := rest }) hm hr hquiet hs.2 he
  · exact advance_controlInv hs hm hr ha hadv

/-! ### A controlled state has a rule -/

theorem takeClient_next (s : State) : ∃ t, takeClient s = .next t := by
  unfold takeClient accept
  split
  · exact ⟨_, rfl⟩
  · exact ⟨_, rfl⟩
  · split
    · exact ⟨_, rfl⟩
    · exact exec_next _ _

/-- Every pair of `TXS` and `TXSUB` that R30 lists for a transmit has its rule. -/
theorem txStep_next {p : Port} {s : State} (htxs : (s.port p).txs ≠ .idle)
    (hsub : (s.port p).txsub ∈ subsOf (s.port p).txs) : ∃ t, txStep p s = .next t := by
  unfold txStep
  cases h : (s.port p).txs with
  | idle => exact absurd h htxs
  | waitFifoEmpty =>
    rw [h] at hsub
    obtain hs | hs : (s.port p).txsub = .checkEmpty ∨ (s.port p).txsub = .pollTxready := by simpa [subsOf] using hsub
    · exact ⟨_, by rw [hs]⟩
    · exact ⟨_, by rw [hs]⟩
  | criticalWrite =>
    rw [h] at hsub
    have hs : (s.port p).txsub = .none := by simpa [subsOf] using hsub
    exact ⟨_, by rw [hs]⟩
  | packAndDrain =>
    rw [h] at hsub
    obtain hs | hs | hs | hs : (s.port p).txsub = .pack ∨ (s.port p).txsub = .pollTxrdy ∨
        (s.port p).txsub = .push ∨ (s.port p).txsub = .restore := by simpa [subsOf] using hsub
    · exact ⟨_, by rw [hs]⟩
    · exact ⟨_, by rw [hs]⟩
    · exact ⟨_, by rw [hs]⟩
    · exact ⟨_, by rw [hs]⟩

/-- The port of a request in progress serves it, so its FSM has a rule. -/
theorem advance_next {op : Op} {port : PortField} {s : State} (hs : ControlInv s) (hm : s.mode = .run)
    (hr : s.refused = none) (ha : s.active = some (op, port)) : ∃ t, advance op port s = .next t := by
  have hlt := ((activeOk_busy hm hr ha).1 hs.1).1
  have hp : Registered s port ⟨port.toNat, by omega⟩ := ⟨rfl, hlt⟩
  obtain ⟨hserv, -⟩ := (activeOk_busy_iff hm hr ha hp).1 hs.1
  cases op with
  | init => simp [Serving] at hserv
  | lookup => simp [Serving] at hserv
  | putChar =>
    simp only [advance, resolvePort_registered hp]
    exact txStep_next ((Serving.send (.inl rfl)).1 hserv).1 (hs.2 _)
  | write =>
    simp only [advance, resolvePort_registered hp]
    exact txStep_next ((Serving.send (.inr rfl)).1 hserv).1 (hs.2 _)
  | getChar =>
    simp only [advance, resolvePort_registered hp]
    obtain ⟨-, hrxs, -⟩ := Serving.getChar.1 hserv
    exact rxStep_next hrxs

/-- A controlled state that is not refused goes on, unless it is in `FATAL` with no reset asserted. -/
theorem step_next {s : State} (hs : ControlInv s) (hr : s.refused = none) (hgo : s.resetPin = true ∨ s.mode = .run) :
    ∃ t, step s = .next t := by
  rw [step_of_not_refused hr]
  cases hpin : s.resetPin with
  | true => exact ⟨_, if_pos hpin⟩
  | false =>
    have hm : s.mode = .run := by simpa [hpin] using hgo
    rw [cycleRun, if_neg (by simp [hpin]), hm]
    cases ha : s.active with
    | none => exact takeClient_next s
    | some request => exact advance_next hs hm hr ha

/-- Settles O56: the mark, the reset input and `MODE` are looked at in this order, and each says what
the step answers. -/
theorem everyControlledStateHasARule : Obligations.EveryControlledStateHasARule := by
  obtain ⟨hfatal, -⟩ := nothingIsAcceptedWhileBusyOrFatal
  obtain ⟨hmarked, -⟩ := refusedRunsGoNoFurther
  intro s hs
  cases hr : s.refused with
  | some reason =>
    have hstep := hmarked s reason hr
    refine ⟨by simp [hstep], fun why => ⟨fun h => ?_, ?_⟩, fun h => by cases h⟩
    · cases hstep.symm.trans h
      exact ⟨reason, rfl, rfl⟩
    · rintro ⟨_, h, rfl⟩
      cases h
      exact hstep
  | none =>
    by_cases hgo : s.resetPin = true ∨ s.mode = .run
    · obtain ⟨t, hstep⟩ := step_next hs hr hgo
      refine ⟨?_, by simp [hstep], fun _ _ => ⟨t, hstep⟩⟩
      obtain hpin | hm := hgo
      · simp [hstep, hpin]
      · simp [hstep, hm]
    · obtain ⟨hpin, hm⟩ := not_or.1 hgo
      have hpin : s.resetPin = false := by simpa using hpin
      have hm : s.mode = .fatal := by cases h : s.mode with
        | run => exact absurd h hm
        | fatal => rfl
      have hstep := hfatal s hr hpin hm
      exact ⟨⟨fun _ => ⟨rfl, hpin, hm⟩, fun _ => ⟨_, hstep⟩⟩, by simp [hstep], fun _ h => absurd h hgo⟩

end Sys2Proof.Machine
end

section
/-! 41_packing.md R126, R127, R129: the ledger of a transmit, and the source accesses of its two passes. -/

namespace Sys2Proof.Machine

/-! ### The ledger at `PACK` -/

theorem TxInv.bounds {s : State} {p : Port} (h : TxInv s p) (hbusy : (s.port p).txs ≠ .idle) : TxBounds s (s.port p) :=
  (h hbusy).1

/-- The cursor of a transmit in progress lies inside its source. -/
theorem TxInv.cursor_le {s : State} {p : Port} (h : TxInv s p) (hbusy : (s.port p).txs ≠ .idle) :
    (s.port p).txcur ≤ (s.port p).txlen := by
  obtain ⟨-, -, hcur, -⟩ := h.bounds hbusy
  exact hcur

/-- Before the last word is pushed, the slots to come, in hand and pushed add up to the count. -/
theorem TxInv.ledger {s : State} {p : Port} (h : TxInv s p) (hbusy : (s.port p).txs ≠ .idle)
    (hsub : (s.port p).txsub ≠ .restore) :
    (s.port p).txi < (s.port p).txw ∧
      (toCome s p).length + inHand (s.port p) + 4 * (s.port p).txi = (s.port p).txc := (h hbusy).2.2 hsub

/-- At `PACK` no word is in hand, so the stream to come fills the slots of the word. -/
theorem TxInv.nslots_le {s : State} {p : Port} (h : TxInv s p) (hbusy : (s.port p).txs ≠ .idle)
    (hsub : (s.port p).txsub = .pack) : nslots (s.port p).txc (s.port p).txi ≤ (toCome s p).length := by
  obtain ⟨-, hledger⟩ := h.ledger hbusy (by simp [hsub])
  rw [inHand, if_neg (by simp [hsub])] at hledger
  rw [nslots_eq]
  omega

/-! ### Passes that stay inside the source -/

/-- `t` is `s` after source accesses of port `p`, each event of which is at an address of the source. -/
structure InsidePass (p : Port) (s t : State) : Prop where
  source : SourceOnly p s t
  events : ∃ es : List Event, t.trace = s.trace ++ es ∧
    ∀ e ∈ es, ∃ k, k < (s.port p).txlen ∧ e.memAddr = some (srcAddr s p k)

theorem InsidePass.refl (p : Port) (s : State) : InsidePass p s s :=
  ⟨SourceOnly.refl p s, [], (List.append_nil _).symm, by simp⟩

theorem InsidePass.trans {p : Port} {s t u : State} (h : InsidePass p s t) (g : InsidePass p t u) :
    InsidePass p s u := by
  obtain ⟨hso, es, hes, hin⟩ := h
  obtain ⟨gso, fs, gfs, gin⟩ := g
  refine ⟨hso.trans gso, es ++ fs, by rw [gfs, hes, List.append_assoc], fun e he => ?_⟩
  obtain he | he := List.mem_append.1 he
  · exact hin e he
  · obtain ⟨k, hk, ha⟩ := gin e he
    exact ⟨k, hso.txlen ▸ hk, ha.trans (congrArg some (hso.srcAddr k))⟩

theorem insidePass_srcRead {p : Port} {k : Nat} {s : State} (hk : k < (s.port p).txlen) :
    InsidePass p s (srcRead p k s) := by
  refine ⟨sourceOnly_srcRead p k s, srcReadEvents s p k, by rw [srcRead_eq], fun e he => ⟨k, hk, ?_⟩⟩
  unfold srcReadEvents at he
  split at he
  · rw [List.mem_singleton.1 he]
    rfl
  · simp at he

theorem insidePass_srcWrite {p : Port} {k : Nat} {s : State} (hk : k < (s.port p).txlen) (v : Byte) :
    InsidePass p s (srcWrite p k v s) := by
  refine ⟨sourceOnly_srcWrite p k v s, ?_⟩
  unfold srcWrite
  split
  · refine ⟨[.mwr (srcAddr s p k) v], rfl, fun e he => ⟨k, hk, ?_⟩⟩
    rw [List.mem_singleton.1 he]
    rfl
  · exact ⟨[], (List.append_nil _).symm, by simp⟩

theorem InsidePass.srcWrite {p : Port} {k : Nat} {s t : State} (h : InsidePass p s t) (hk : k < (s.port p).txlen)
    (v : Byte) : InsidePass p s (srcWrite p k v t) :=
  h.trans (insidePass_srcWrite (h.source.txlen.symm ▸ hk) v)

theorem insidePass_slotStep {p : Port} {cur : Nat} {s : State} (hcur : cur < (s.port p).txlen) :
    InsidePass p s (slotStep p cur s).after := by
  have hread := insidePass_srcRead hcur
  simp only [slotStep]
  split_ifs
  · exact hread.srcWrite hcur _
  · exact hread
  · exact hread

/-- Where bytes of the stream are to come, the cursor is at a byte of the source. -/
theorem lt_of_physical_ne_nil {s : State} {p : Port} {cur : Nat}
    (h : 0 < (physical s p cur ((s.port p).txlen - cur)).length) : cur < (s.port p).txlen := by
  by_contra hge
  rw [Nat.sub_eq_zero_of_le (Nat.not_lt.1 hge)] at h
  simp [physical, srcBytes] at h

theorem insidePass_packFrom {p : Port} (n j : Nat) (w : Word) {cur : Nat} {s : State} (hm : s.mem.wf = true)
    (hf : SrcFits s p) (hn : n ≤ (physical s p cur ((s.port p).txlen - cur)).length) :
    InsidePass p s (packFrom p n j w cur s).after := by
  induction n generalizing j w cur s with
  | zero => exact InsidePass.refl p s
  | succ n ih =>
    have hcur := lt_of_physical_ne_nil (Nat.lt_of_lt_of_le (Nat.succ_pos n) hn)
    obtain ⟨hso, -, -, -, hstream⟩ := slotStep_spec hm hf hcur
    rw [← hstream, List.length_cons] at hn
    refine (insidePass_slotStep hcur).trans (ih _ _ (hso.memWf hm) (hso.srcFits hf) ?_)
    rw [hso.txlen]
    omega

theorem insidePass_restoreFrom {p : Port} (n j : Nat) {s : State} (hj : j + n ≤ (s.port p).txlen) :
    InsidePass p s (restoreFrom p n j s) := by
  induction n generalizing j s with
  | zero => exact InsidePass.refl p s
  | succ n ih =>
    have hbyte : InsidePass p s (restoreByte p j s) := by
      have hread := insidePass_srcRead (p := p) (k := j) (s := s) (by omega)
      simp only [restoreByte]
      split_ifs
      · exact hread.srcWrite (by omega) _
      · exact hread
    exact hbyte.trans (ih (j + 1) (by rw [hbyte.source.txlen]; omega))

end Sys2Proof.Machine
end

section
/-! 00_scope.md R12, 20_memory.md R54, R60, R62: the events of a step. -/

namespace Sys2Proof.Machine

/-! ### Events, draws and answers -/

/-- The step from `s` to `t` records `es` after the earlier events, at most one of them a register read; that read takes
one draw and one answer, and its value is the one the device gives. -/
structure Records (s t : State) (es : List Event) : Prop where
  trace : t.trace = s.trace ++ es
  draws : t.draws = s.draws + (es.filter Event.isBusRead).length
  answers : t.answers = s.answers.drop (es.filter Event.isBusRead).length
  reads : ∀ a v, .rd a v ∈ es → v = answer s
  oneRead : (es.filter Event.isBusRead).length ≤ 1

theorem records_without_read {s t : State} {es : List Event} (htrace : t.trace = s.trace ++ es)
    (hdraws : t.draws = s.draws) (hanswers : t.answers = s.answers) (hno : ∀ e ∈ es, e.isBusRead = false) :
    Records s t es := by
  have hnil : es.filter Event.isBusRead = [] := List.filter_eq_nil_iff.2 fun e he => by simp [hno e he]
  refine ⟨htrace, by simp [hnil, hdraws], by simp [hnil, hanswers], fun a v hv => ?_, by simp [hnil]⟩
  have := hno _ hv
  simp [Event.isBusRead] at this

theorem records_read {s t : State} {a : Nat} {es : List Event} (htrace : t.trace = s.trace ++ .rd a (answer s) :: es)
    (hdraws : t.draws = s.draws + 1) (hanswers : t.answers = s.answers.tail) (hno : ∀ e ∈ es, e.isBusRead = false) :
    Records s t (.rd a (answer s) :: es) := by
  have hone : (Event.rd a (answer s) :: es).filter Event.isBusRead = [.rd a (answer s)] := by
    rw [List.filter_cons_of_pos rfl, List.filter_eq_nil_iff.2 fun e he => by simp [hno e he]]
  refine ⟨htrace, by rw [hone]; exact hdraws, by rw [hone, hanswers]; simp, fun b v hv => ?_, by rw [hone]; simp⟩
  obtain heq | hv := List.mem_cons.1 hv
  · cases heq
    rfl
  · have := hno _ hv
    simp [Event.isBusRead] at this

theorem not_isBusRead_of_isMem {e : Event} (h : e.isMem = true) : e.isBusRead = false := by
  cases e with
  | mrd | mwr => rfl
  | _ => simp [Event.isMem] at h

/-! ### The events of an accepted request -/

/-- An event that accepting `i` may record: a response, one of the two resets of INIT at its base, or a read of the
buffer of a WRITE. -/
inductive ExecEvent (i : Instr) (s : State) : Event → Prop
  | rsp (st : BitVec 8) (d : Nat) : ExecEvent i s (.rsp st d)
  | reset (port : PortField) (uartBase clkBase : Nat) (hi : i = .init port uartBase clkBase) (v : Word)
      (hv : v = s.cfg.cmdResetRx ∨ v = s.cfg.cmdResetTx) : ExecEvent i s (.wr (busAddr s (uartBase + s.cfg.offCR)) v)
  | count (port : PortField) (buf : Nat) (len : Word) (hi : i = .write port buf len) (k : Nat) (hk : k < len.toNat)
      (v : Byte) : ExecEvent i s (.mrd (busAddr s (buf + k)) v)

theorem ExecEvent.not_isBusRead {i : Instr} {s : State} {e : Event} (h : ExecEvent i s e) : e.isBusRead = false := by
  cases h <;> rfl

/-- The reads of a count pass are at the bytes of the buffer of a WRITE. -/
theorem counted_events {s u : State} {p : Port} {i : Instr} (h : StartsFrom s p i u) :
    ∃ es : List Event, (counted p u).trace = s.trace ++ es ∧ ∀ e ∈ es, ExecEvent i s e := by
  cases h with
  | putc port byte =>
    rw [counted_putcSource]
    exact ⟨[], (List.append_nil _).symm, by simp⟩
  | write port buf len hbuf hlen hrange =>
    rw [counted_writeSource hrange]
    refine ⟨_, rfl, fun e he => ?_⟩
    obtain ⟨k, hk, rfl⟩ := List.mem_map.1 he
    have hk := List.mem_range.1 hk
    have haddr : buf + k = busAddr s (buf + k) := (busAddr_of_lt s (by omega)).symm
    rw [haddr]
    exact .count port buf len rfl k hk _

theorem exec_events {i : Instr} {s t : State} (h : exec i s = .next t) :
    ∃ es : List Event, t.trace = s.trace ++ es ∧ ∀ e ∈ es, ExecEvent i s e := by
  have hrsp (st : BitVec 8) (d : Nat) : ∀ e ∈ [Event.rsp st d], ExecEvent i s e := fun e he => by
    rw [List.mem_singleton.1 he]
    exact .rsp st d
  cases exec_outcome h with
  | answered st d hd => exact ⟨_, rfl, hrsp _ _⟩
  | marked why hwhy => exact ⟨[], (List.append_nil _).symm, by simp⟩
  | registered port uartBase clkBase halign hfree =>
    refine ⟨_, (List.append_assoc _ _ _).trans (List.append_assoc _ _ _), fun e he => ?_⟩
    obtain he | he := List.mem_append.1 he
    · rw [List.mem_singleton.1 he]
      exact .reset port uartBase clkBase rfl _ (.inl rfl)
    · obtain he | he := List.mem_append.1 he
      · rw [List.mem_singleton.1 he]
        exact .reset port uartBase clkBase rfl _ (.inr rfl)
      · exact hrsp _ _ e he
  | full port uartBase clkBase hfull =>
    refine ⟨_, List.append_assoc _ _ _, fun e he => ?_⟩
    obtain he | he := List.mem_append.1 he
    · rw [List.mem_singleton.1 he]
      exact .reset port uartBase clkBase rfl _ (.inl rfl)
    · rw [List.mem_singleton.1 he]
      exact .reset port uartBase clkBase rfl _ (.inr rfl)
  | cached port wait p hp => exact ⟨_, rfl, hrsp _ _⟩
  | fetching port wait p hp hempty => exact ⟨[], (List.append_nil _).symm, by simp⟩
  | tooWide p u hp hstart => exact counted_events hstart
  | started p u hp hstart hfits => exact counted_events hstart

/-! ### The events of a request in progress -/

/-- An event that a step of a request of operation `op` in progress on port `p` may record. -/
inductive AdvanceEvent (op : Op) (p : Port) (s : State) : Event → Prop
  | rsp (st : BitVec 8) (d : Nat) : AdvanceEvent op p s (.rsp st d)
  | read (x : Reg) (hx : x ∈ readsOf op) (v : Word) : AdvanceEvent op p s (.rd (regAddr s p x) v)
  | write (x : Reg) (v : Word) (hx : (x, v) ∈ writesOf s p op) : AdvanceEvent op p s (.wr (regAddr s p x) v)
  | critEnter (hop : op = .putChar ∨ op = .write) : AdvanceEvent op p s (.critEnter p)
  | critExit (hop : op = .putChar ∨ op = .write) : AdvanceEvent op p s (.critExit p)
  | memory {e : Event} (he : e.isMem = true) (hop : op = .putChar ∨ op = .write) (hsrc : (s.port p).txsrc = .mem)
      (hin : s.mem.wf = true → TxInv s p → ∃ k, k < (s.port p).txlen ∧ e.memAddr = some (srcAddr s p k)) :
      AdvanceEvent op p s e

/-- The events of a pass over the source, given where they lie when the invariant holds. -/
theorem PassEvents.advanceEvents {op : Op} {p : Port} {s t : State} {n : Nat} (h : PassEvents s t p n)
    (hop : op = .putChar ∨ op = .write) (hin : s.mem.wf = true → TxInv s p → InsidePass p s t) :
    ∃ es : List Event, t.trace = s.trace ++ es ∧ (∀ e ∈ es, e.isMem = true) ∧ ∀ e ∈ es, AdvanceEvent op p s e := by
  obtain ⟨es, htrace, hmem, hstage, -⟩ := h
  refine ⟨es, htrace, hmem, fun e he => .memory (hmem e he) hop ?_ fun hm hinv => ?_⟩
  · cases hsrc : (s.port p).txsrc with
    | mem => rfl
    | stage => simp [hstage hsrc] at he
  · obtain ⟨fs, hfs, hfin⟩ := (hin hm hinv).events
    exact hfin e (List.append_cancel_left (htrace.symm.trans hfs) ▸ he)

theorem txStep_records {op : Op} {p : Port} {s t : State} (hop : op = .putChar ∨ op = .write)
    (h : txStep p s = .next t) : ∃ es, Records s t es ∧ ∀ e ∈ es, AdvanceEvent op p s e := by
  have hwrite {x : Reg} {v : Word} (hx : (x, v) ∈ writesOf s p .write) :
      AdvanceEvent op p s (.wr (regAddr s p x) v) := by
    obtain rfl | rfl := hop <;> exact .write x v hx
  cases txStep_outcome h with
  | polled x hx q hq =>
    refine ⟨[.rd (regAddr s p x) (answer s)], records_read rfl rfl rfl (by simp), fun e he => ?_⟩
    rw [List.mem_singleton.1 he]
    refine .read x ?_ _
    obtain rfl | rfl := hop <;> simpa [readsOf] using hx
  | entered htxs hsub =>
    rw [txCriticalWrite_eq]
    refine ⟨_, records_without_read rfl rfl rfl (by simp [Event.isBusRead]), fun e he => ?_⟩
    simp only [List.mem_cons, List.not_mem_nil, or_false] at he
    obtain rfl | rfl | rfl := he
    · exact .critEnter hop
    · exact hwrite (by simp [writesOf])
    · exact hwrite (by simp [writesOf])
  | packed htxs hsub =>
    obtain ⟨m, es, b, w, cur, hpack⟩ := txPack_shape p s
    have hpass := passEvents_packFrom p (nslots (s.port p).txc (s.port p).txi) 0 0 (s.port p).txcur s
    obtain ⟨fs, htrace, hmem, hevents⟩ := hpass.advanceEvents hop fun hm hinv =>
      have hbusy : (s.port p).txs ≠ .idle := by simp [htxs]
      insidePass_packFrom _ 0 0 hm (hinv.bounds hbusy).srcFits (hinv.nslots_le hbusy hsub)
    refine ⟨fs, records_without_read htrace ?_ ?_ fun e he => not_isBusRead_of_isMem (hmem e he), hevents⟩
      <;> rw [hpack]
  | pushed htxs hsub hmore =>
    rw [txPush_next hmore]
    refine ⟨_, records_without_read rfl rfl rfl (by simp [Event.isBusRead]), fun e he => ?_⟩
    rw [List.mem_singleton.1 he]
    exact hwrite (by simp [writesOf])
  | pushedLast htxs hsub hlast =>
    rw [txPush_last hlast]
    refine ⟨_, records_without_read rfl rfl rfl (by simp [Event.isBusRead]), fun e he => ?_⟩
    simp only [List.mem_cons, List.not_mem_nil, or_false] at he
    obtain rfl | rfl := he
    · exact hwrite (by simp [writesOf])
    · exact .critExit hop
  | ended htxs hsub =>
    obtain ⟨m, es, b, hrestore⟩ := txRestore_shape p s
    obtain ⟨fs, htrace, hmem, hevents⟩ := (passEvents_restoreFrom p (s.port p).txlen 0 s).advanceEvents hop
      fun _ _ => insidePass_restoreFrom (s.port p).txlen 0 (Nat.zero_add _).le
    have hend : (txRestore p s).trace = s.trace ++ (fs ++ [.rsp 0x00 0]) := by
      rw [← List.append_assoc, ← htrace]
      rfl
    refine ⟨fs ++ [.rsp 0x00 0], records_without_read hend ?_ ?_ fun e he => ?_, fun e he => ?_⟩
    · rw [hrestore]
    · rw [hrestore]
    · obtain he | he := List.mem_append.1 he
      · exact not_isBusRead_of_isMem (hmem e he)
      · rw [List.mem_singleton.1 he]
        rfl
    · obtain he | he := List.mem_append.1 he
      · exact hevents e he
      · rw [List.mem_singleton.1 he]
        exact .rsp _ _

theorem rxStep_records {p : Port} {s t : State} (h : rxStep p s = .next t) :
    ∃ es, Records s t es ∧ ∀ e ∈ es, AdvanceEvent .getChar p s e := by
  cases rxStep_outcome h with
  | fetching u hu q hq hrxs hrxc =>
    cases hu with
    | read x hx =>
      refine ⟨[.rd (regAddr s p x) (answer s)], records_read rfl rfl rfl (by simp), fun e he => ?_⟩
      rw [List.mem_singleton.1 he]
      exact .read x hx _
    | write x v hx =>
      refine ⟨[.wr (regAddr s p x) v], records_without_read rfl rfl rfl (by simp [Event.isBusRead]), fun e he => ?_⟩
      rw [List.mem_singleton.1 he]
      exact .write x v hx
  | answered u hu q hq hrxs st d hd =>
    cases hu with
    | read x hx =>
      refine ⟨[.rd (regAddr s p x) (answer s), .rsp (statusCode st) d],
        records_read (List.append_assoc _ _ _) rfl rfl (by simp [Event.isBusRead]), fun e he => ?_⟩
      simp only [List.mem_cons, List.not_mem_nil, or_false] at he
      obtain rfl | rfl := he
      · exact .read x hx _
      · exact .rsp _ _
    | write x v hx =>
      refine ⟨[.wr (regAddr s p x) v, .rsp (statusCode st) d],
        records_without_read (List.append_assoc _ _ _) rfl rfl (by simp [Event.isBusRead]), fun e he => ?_⟩
      simp only [List.mem_cons, List.not_mem_nil, or_false] at he
      obtain rfl | rfl := he
      · exact .write x v hx
      · exact .rsp _ _

/-! ### The events of a step -/

/-- An event that a step from `s` may record: the answer to an illegal request, an event of the request it accepts, or
one of the request in progress. -/
inductive StepEvent (s : State) : Event → Prop
  | rsp (st : BitVec 8) (d : Nat) : StepEvent s (.rsp st d)
  | accepting (i : Instr) (ha : s.active = none) (hacc : accepted s = some i) {e : Event} (he : ExecEvent i s e) :
      StepEvent s e
  | advancing (op : Op) (port : PortField) (p : Port) (hm : s.mode = .run) (hr : s.refused = none)
      (ha : s.active = some (op, port)) (hp : Registered s port p) {e : Event} (he : AdvanceEvent op p s e) :
      StepEvent s e

theorem ExecEvent.congr {i : Instr} {s u : State} {e : Event} (h : ExecEvent i u e) (hc : u.cfg = s.cfg) :
    ExecEvent i s e := by
  cases h with
  | rsp st d => exact .rsp st d
  | reset port uartBase clkBase hi v hv =>
    rw [busAddr_congr hc, hc]
    exact .reset port uartBase clkBase hi v (hc ▸ hv)
  | count port buf len hi k hk v =>
    rw [busAddr_congr hc]
    exact .count port buf len hi k hk v

theorem takeClient_records {s t : State} (ha : s.active = none) (h : takeClient s = .next t) :
    ∃ es, Records s t es ∧ ∀ e ∈ es, StepEvent s e := by
  obtain ⟨-, rfl⟩ | ⟨a, v, rest, -, rfl⟩ | ⟨r, rest, why, -, -, rfl⟩ | ⟨r, rest, i, hc, hd, he⟩ := takeClient_cases h
  · exact ⟨[], records_without_read (List.append_nil _).symm rfl rfl (by simp), by simp⟩
  · exact ⟨[], records_without_read (List.append_nil _).symm rfl rfl (by simp), by simp⟩
  · refine ⟨_, records_without_read rfl rfl rfl (by simp [Event.isBusRead]), fun e he => ?_⟩
    rw [List.mem_singleton.1 he]
    exact .rsp _ _
  · have hacc : accepted s = some i := by simp only [accepted, ha, hc, hd]
    obtain ⟨es, htrace, hevents⟩ := exec_events he
    exact ⟨es, records_without_read htrace (exec_keeps he).draws (exec_keeps he).answers
      fun e he => (hevents e he).not_isBusRead,
      fun e he => .accepting i ha hacc ((hevents e he).congr rfl)⟩

theorem step_records {s t : State} (h : step s = .next t) : ∃ es, Records s t es ∧ ∀ e ∈ es, StepEvent s e := by
  obtain ⟨hr, ⟨-, rfl⟩ | ⟨-, -, ha, htake⟩ | ⟨-, hm, op, port, ha, hadv⟩⟩ := step_cases h
  · exact ⟨[], records_without_read (List.append_nil _).symm rfl rfl (by simp), by simp⟩
  · exact takeClient_records ha htake
  · obtain ⟨p, hp, hfsm⟩ := advance_cases hadv
    have hrec : ∃ es, Records s t es ∧ ∀ e ∈ es, AdvanceEvent op p s e := by
      obtain ⟨hop, htx⟩ | ⟨rfl, hrx⟩ := hfsm
      · exact txStep_records hop htx
      · exact rxStep_records hrx
    obtain ⟨es, hrecords, hevents⟩ := hrec
    exact ⟨es, hrecords, fun e he => .advancing op port p hm hr ha hp (hevents e he)⟩

/-- Settles O48: the events after the earlier ones are the ones the step records. -/
theorem eachRegisterReadTakesOneDraw : Obligations.EachRegisterReadTakesOneDraw := by
  intro s t es h htrace
  obtain ⟨fs, ⟨hfs, hdraws, hanswers, hreads, -⟩, -⟩ := step_records h
  obtain rfl : fs = es := List.append_cancel_left (hfs.symm.trans htrace)
  exact ⟨hreads, hdraws, hanswers⟩

theorem AdvanceEvent.isPortAccess {op : Op} {p : Port} {s : State} {e : Event} (h : AdvanceEvent op p s e)
    (he : e.isBus = true) : e.isPortAccess s op p = true := by
  cases h with
  | read x hx v => exact List.any_eq_true.2 ⟨x, hx, beq_self_eq_true _⟩
  | write x v hx => exact List.any_eq_true.2 ⟨(x, v), hx, by simp⟩
  | memory hmem hop hsrc hin => cases e <;> simp [Event.isMem, Event.isBus] at hmem he
  | rsp st d => simp [Event.isBus] at he
  | critEnter hop => simp [Event.isBus] at he
  | critExit hop => simp [Event.isBus] at he

/-- The register accesses of a step are those of the request in progress on its port, or the resets of the INIT it
accepts. -/
theorem StepEvent.bus {s : State} {e : Event} (h : StepEvent s e) (he : e.isBus = true) :
    (∃ (op : Op) (port : PortField) (p : Port), s.active = some (op, port) ∧ Registered s port p ∧
      e.isPortAccess s op p = true) ∨
    (∃ port uartBase clkBase, accepted s = some (.init port uartBase clkBase) ∧
      (e = .wr (busAddr s (uartBase + s.cfg.offCR)) s.cfg.cmdResetRx ∨
       e = .wr (busAddr s (uartBase + s.cfg.offCR)) s.cfg.cmdResetTx)) := by
  cases h with
  | rsp st d => simp [Event.isBus] at he
  | accepting i ha hacc hexec =>
    cases hexec with
    | rsp st d => simp [Event.isBus] at he
    | reset port uartBase clkBase hi v hv =>
      subst hi
      exact .inr ⟨port, uartBase, clkBase, hacc, hv.imp (congrArg _) (congrArg _)⟩
    | count port buf len hi k hk v => simp [Event.isBus] at he
  | advancing op port p hm hr ha hp hadv => exact .inl ⟨op, port, p, ha, hp, hadv.isPortAccess he⟩

/-- The accesses to client memory of a step are those of the WRITE it serves, inside its buffer. -/
theorem StepEvent.memory {s : State} {e : Event} (hs : ControlInv s) (h : StepEvent s e) (he : e.isMem = true) :
    (∃ port, served s = some (.write, port)) ∧
      (Inv s → ∃ buf n k, servedBuffer s = some (buf, n) ∧ k < n ∧ e.memAddr = some (busAddr s (buf + k))) := by
  cases h with
  | rsp st d => simp [Event.isMem] at he
  | accepting i ha hacc hexec =>
    cases hexec with
    | rsp st d => simp [Event.isMem] at he
    | reset port uartBase clkBase hi v hv => simp [Event.isMem] at he
    | count port buf len hi k hk v =>
      subst hi
      exact ⟨⟨port, by simp [served, ha, hacc, Instr.op, Instr.port]⟩,
        fun _ => ⟨buf, len.toNat, k, by simp [servedBuffer, ha, hacc], hk, rfl⟩⟩
  | advancing op port p hm hr ha hp hadv =>
    cases hadv with
    | memory hmem hop hsrc hin =>
      have hserv := ((activeOk_busy_iff hm hr ha hp).1 hs.1).1
      obtain rfl : op = .write := by
        obtain rfl | rfl := hop
        · simp [Serving.txsrc_putChar hserv] at hsrc
        · rfl
      refine ⟨⟨port, by simp [served, ha]⟩, fun hinv => ?_⟩
      obtain ⟨k, hk, haddr⟩ := hin hinv.mem.1 (hinv.transmit p)
      exact ⟨(s.port p).txbuf, (s.port p).txlen, k, by simp [servedBuffer, ha, resolvePort_registered hp], hk, haddr⟩
    | _ => simp [Event.isMem] at he

/-- Settles O46: every event of a step is an event of the request the step serves. -/
theorem stepsAccessOnlyWhatTheirRequestMay : Obligations.StepsAccessOnlyWhatTheirRequestMay := by
  intro s t hs _ h
  obtain ⟨es, hrec, hevents⟩ := step_records h
  exact ⟨es, hrec.trace, hrec.oneRead, fun e he => (hevents e he).bus, fun e he => (hevents e he).memory hs⟩

/-! ### The critical section -/

/-- The events `es` of the step from `s` to `t` mark exactly the ends of critical sections. -/
def CritMarks (s t : State) (es : List Event) : Prop :=
  ∀ p : Port,
    (Event.critEnter p ∈ es ↔ (s.port p).inCritical = false ∧ (t.port p).inCritical = true) ∧
    (Event.critExit p ∈ es ↔ (s.port p).inCritical = true ∧ (t.port p).inCritical = false)

/-- An end of a critical section. -/
def Event.isCrit : Event → Bool
  | .critEnter _ => true
  | .critExit _ => true
  | _ => false

theorem critMarks_of_none {s t : State} {es : List Event} (hno : ∀ e ∈ es, e.isCrit = false)
    (hsame : ∀ r : Port, (t.port r).inCritical = (s.port r).inCritical) : CritMarks s t es := by
  have hnot {e : Event} (hcrit : e.isCrit = true) : e ∉ es := fun he => by simp [hno e he] at hcrit
  intro r
  rw [hsame r]
  exact ⟨⟨fun he => absurd he (hnot rfl), fun h => by simp [h.1] at h⟩,
    ⟨fun he => absurd he (hnot rfl), fun h => by simp [h.1] at h⟩⟩

theorem not_isCrit_of_isMem {e : Event} (h : e.isMem = true) : e.isCrit = false := by
  cases e with
  | mrd | mwr => rfl
  | _ => simp [Event.isMem] at h

/-- Where only port `p` changes, its section is the only one that can change. -/
theorem inCritical_same {s t : State} {p : Port} (hother : ∀ r : Port, r ≠ p → t.port r = s.port r)
    (hown : (t.port p).inCritical = (s.port p).inCritical) (r : Port) :
    (t.port r).inCritical = (s.port r).inCritical := by
  by_cases hr : r = p
  · exact hr ▸ hown
  · rw [hother r hr]

theorem critMarks_enter {s t : State} {p : Port} {es : List Event} (hother : ∀ r : Port, r ≠ p → t.port r = s.port r)
    (hno : ∀ e ∈ es, e.isCrit = false) (hs : (s.port p).inCritical = false) (ht : (t.port p).inCritical = true) :
    CritMarks s t (.critEnter p :: es) := by
  have hnot {e : Event} (hcrit : e.isCrit = true) : e ∉ es := fun he => by simp [hno e he] at hcrit
  intro r
  by_cases hr : r = p
  · subst hr
    simp [hs, ht, hnot (e := .critExit r) rfl]
  · simp [hother r hr, hr, hnot (e := .critEnter r) rfl, hnot (e := .critExit r) rfl]

theorem critMarks_exit {s t : State} {p : Port} {es : List Event} (hother : ∀ r : Port, r ≠ p → t.port r = s.port r)
    (hno : ∀ e ∈ es, e.isCrit = false) (hs : (s.port p).inCritical = true) (ht : (t.port p).inCritical = false) :
    CritMarks s t (es ++ [.critExit p]) := by
  have hnot {e : Event} (hcrit : e.isCrit = true) : e ∉ es := fun he => by simp [hno e he] at hcrit
  intro r
  by_cases hr : r = p
  · subst hr
    simp [hs, ht, hnot (e := .critEnter r) rfl]
  · simp [hother r hr, hr, hnot (e := .critEnter r) rfl, hnot (e := .critExit r) rfl]

theorem txStep_critMarks {p : Port} {s t : State} (h : txStep p s = .next t) :
    ∃ es, t.trace = s.trace ++ es ∧ CritMarks s t es := by
  have hother := (txStep_changesOnlyAt h).other
  cases txStep_outcome h with
  | polled x hx q hq =>
    refine ⟨_, rfl, critMarks_of_none (by simp [Event.isCrit]) (inCritical_same hother ?_)⟩
    rw [setPort_port_self]
    exact hq.inCritical
  | entered htxs hsub =>
    rw [txCriticalWrite_eq] at hother ⊢
    refine ⟨_, rfl, critMarks_enter hother (by simp [Event.isCrit]) (by simp [inCritical_eq, htxs]) ?_⟩
    rw [port_of_set rfl]
    simp [inCritical_eq]
  | packed htxs hsub =>
    obtain ⟨m, es, b, w, cur, hpack⟩ := txPack_shape p s
    obtain ⟨fs, htrace, hmem, -⟩ :=
      passEvents_packFrom p (nslots (s.port p).txc (s.port p).txi) 0 0 (s.port p).txcur s
    refine ⟨fs, htrace, critMarks_of_none (fun e he => not_isCrit_of_isMem (hmem e he)) (inCritical_same hother ?_)⟩
    rw [hpack, port_of_set rfl]
    simp [inCritical_eq, htxs, hsub]
  | pushed htxs hsub hmore =>
    rw [txPush_next hmore] at hother ⊢
    refine ⟨_, rfl, critMarks_of_none (by simp [Event.isCrit]) (inCritical_same hother ?_)⟩
    rw [port_of_set rfl]
    simp [inCritical_eq, htxs, hsub]
  | pushedLast htxs hsub hlast =>
    rw [txPush_last hlast] at hother ⊢
    refine ⟨_, rfl, critMarks_exit (es := [_]) hother (by simp [Event.isCrit]) (by simp [inCritical_eq, htxs, hsub]) ?_⟩
    rw [port_of_set rfl]
    simp [inCritical_eq]
  | ended htxs hsub =>
    obtain ⟨m, es, b, hrestore⟩ := txRestore_shape p s
    obtain ⟨fs, htrace, hmem, -⟩ := passEvents_restoreFrom p (s.port p).txlen 0 s
    refine ⟨fs ++ [.rsp 0x00 0], ?_, critMarks_of_none (fun e he => ?_) (inCritical_same hother ?_)⟩
    · rw [← List.append_assoc, ← htrace]
      rfl
    · obtain he | he := List.mem_append.1 he
      · exact not_isCrit_of_isMem (hmem e he)
      · rw [List.mem_singleton.1 he]
        rfl
    · rw [hrestore, port_of_set rfl]
      simp [inCritical_eq, hsub]

theorem ExecEvent.not_isCrit {i : Instr} {s : State} {e : Event} (h : ExecEvent i s e) : e.isCrit = false := by
  cases h <;> rfl

/-- No request but a transmit has a critical section. -/
theorem AdvanceEvent.not_isCrit {p : Port} {s : State} {e : Event} (h : AdvanceEvent .getChar p s e) :
    e.isCrit = false := by
  cases h with
  | memory he hop hsrc hin => exact not_isCrit_of_isMem he
  | critEnter hop => simp at hop
  | critExit hop => simp at hop
  | _ => rfl

theorem rxStep_critMarks {p : Port} {s t : State} (h : rxStep p s = .next t) :
    ∃ es, t.trace = s.trace ++ es ∧ CritMarks s t es := by
  have hchange := rxStep_changesOnlyAt h
  obtain ⟨es, hrec, hevents⟩ := rxStep_records h
  refine ⟨es, hrec.trace, critMarks_of_none (fun e he => (hevents e he).not_isCrit) (inCritical_same hchange.other ?_)⟩
  rw [inCritical_eq, inCritical_eq, hchange.own.txs, hchange.own.txsub]

theorem not_inCritical_of_txs {q : PortState} (h : q.txs ≠ .packAndDrain) : q.inCritical = false := by
  simp [inCritical_eq, h]

/-- Accepting a request with all transmits idle enters no critical section. -/
theorem exec_not_inCritical {i : Instr} {s t : State} (hidle : ∀ p : Port, (s.port p).txs = .idle)
    (h : exec i s = .next t) (r : Port) : (t.port r).inCritical = false := by
  have hset {p : Port} {q : PortState} {u : State} (hu : u.port r = s.port r) (hq : q.txs ≠ .packAndDrain) :
      ((u.setPort p q).port r).inCritical = false := by
    rw [setPort_port]
    split_ifs
    · exact not_inCritical_of_txs hq
    · rw [hu]
      exact not_inCritical_of_txs (by simp [hidle r])
  cases exec_outcome h with
  | cached port wait p hp => exact hset rfl (by simp [hidle p])
  | fetching port wait p hp hempty => exact hset rfl (by simp [hidle p])
  | tooWide p u hp hstart =>
    obtain ⟨src, buf, stg, len, rfl, -⟩ := hstart.eq
    exact hset rfl (by simp [hidle p])
  | started p u hp hstart hfits =>
    obtain ⟨src, buf, stg, len, rfl, -⟩ := hstart.eq
    by_cases hr : r = p
    · rw [hr, setPort_port_self]
      exact not_inCritical_of_txs (by simp [txStarted])
    · rw [setPort_port_ne _ _ hr]
      exact hset rfl (by simp [hidle p])
  | _ => exact not_inCritical_of_txs (q := s.port r) (by simp [hidle r])

theorem takeClient_critMarks {s t : State} (hidle : ∀ p : Port, (s.port p).txs = .idle) (h : takeClient s = .next t) :
    ∃ es, t.trace = s.trace ++ es ∧ CritMarks s t es := by
  obtain ⟨-, rfl⟩ | ⟨a, v, rest, -, rfl⟩ | ⟨r, rest, why, -, -, rfl⟩ | ⟨r, rest, i, -, -, he⟩ := takeClient_cases h
  · exact ⟨[], (List.append_nil _).symm, critMarks_of_none (by simp) fun _ => rfl⟩
  · exact ⟨[], (List.append_nil _).symm, critMarks_of_none (by simp) fun _ => rfl⟩
  · exact ⟨_, rfl, critMarks_of_none (by simp [Event.isCrit]) fun _ => rfl⟩
  · obtain ⟨es, htrace, hevents⟩ := exec_events he
    refine ⟨es, htrace, critMarks_of_none (fun e he => (hevents e he).not_isCrit) fun p => ?_⟩
    rw [exec_not_inCritical (s := { s with client := rest }) hidle he, not_inCritical_of_txs (by simp [hidle p])]

/-- Settles O47: a transmit enters its section with the count and leaves it with the last word; no other step touches
one. -/
theorem criticalSectionEventsMarkItsEnds : Obligations.CriticalSectionEventsMarkItsEnds := by
  intro s t es hs hpin h htrace
  have hmarks : ∃ fs, t.trace = s.trace ++ fs ∧ CritMarks s t fs := by
    obtain ⟨hr, ⟨hpin', -⟩ | ⟨-, hm, ha, htake⟩ | ⟨-, -, op, port, -, hadv⟩⟩ := step_cases h
    · simp [hpin] at hpin'
    · exact takeClient_critMarks (fun p => ((activeOk_free hm hr ha).1 hs.1 p).1) htake
    · obtain ⟨p, -, ⟨-, htx⟩ | ⟨-, hrx⟩⟩ := advance_cases hadv
      · exact txStep_critMarks htx
      · exact rxStep_critMarks hrx
  obtain ⟨fs, hfs, hmarks⟩ := hmarks
  obtain rfl : fs = es := List.append_cancel_left (hfs.symm.trans htrace)
  exact hmarks

end Sys2Proof.Machine
end

section
/-! 41_packing.md R124 to R131: what `PACK` takes of the physical stream, and the ledger that every step keeps. -/

namespace Sys2Proof.Machine

/-! ### The lanes of a filled word -/

theorem laneGet_fillLanes_below (bs : List Byte) {j k : Nat} (hk : k < 4) (hkj : k < j) (w : Word) :
    laneGet (fillLanes j w bs) k = laneGet w k := by
  induction bs generalizing j w with
  | nil => rfl
  | cons b bs ih => rw [fillLanes, ih (by omega), laneGet_lanePut w b hk, if_neg (by omega)]

/-- The lanes from `j` on hold the bytes filled in, and above them what the word held. -/
theorem laneGet_fillLanes (bs : List Byte) {j k : Nat} (hk : k < 4) (hjk : j ≤ k) (w : Word) :
    laneGet (fillLanes j w bs) k = (bs[k - j]?).getD (laneGet w k) := by
  induction bs generalizing j w with
  | nil => rfl
  | cons b bs ih =>
    rw [fillLanes]
    obtain rfl | hlt := Nat.eq_or_lt_of_le hjk
    · rw [laneGet_fillLanes_below bs hk (Nat.lt_succ_self j), laneGet_lanePut w b hk, if_pos rfl, Nat.sub_self]
      rfl
    · rw [ih hlt, laneGet_lanePut w b hk, if_neg (by omega), show k - j = k - (j + 1) + 1 by omega,
        List.getElem?_cons_succ]

theorem laneGet_zero (j : Nat) : laneGet 0 j = 0 := (eq_zero_iff_lanes 0).1 rfl j

/-- A word filled from lane 0 into the zero word holds the bytes, and zeros above them. -/
theorem laneGet_fillLanes_zero (bs : List Byte) {k : Nat} (hk : k < 4) :
    laneGet (fillLanes 0 0 bs) k = (bs[k]?).getD 0 := by
  rw [laneGet_fillLanes bs hk (Nat.zero_le k), laneGet_zero, Nat.sub_zero]

/-! ### The source of a transmit after an update -/

/-- `t` has the source of port `p` that `s` has: the same bytes at the same places. -/
structure SameSource (p : Port) (s t : State) : Prop where
  cfg : t.cfg = s.cfg
  mem : t.mem = s.mem
  txsrc : (t.port p).txsrc = (s.port p).txsrc
  txbuf : (t.port p).txbuf = (s.port p).txbuf
  txstg : (t.port p).txstg = (s.port p).txstg

theorem SameSource.srcAddr {p : Port} {s t : State} (h : SameSource p s t) (k : Nat) :
    srcAddr t p k = srcAddr s p k := by
  simp only [Machine.srcAddr, busAddr, h.cfg, h.txbuf]

theorem SameSource.srcByte {p : Port} {s t : State} (h : SameSource p s t) (k : Nat) :
    srcByte t p k = srcByte s p k := by
  simp only [Machine.srcByte, h.mem, h.txsrc, h.txstg, h.srcAddr]

theorem SameSource.physical {p : Port} {s t : State} (h : SameSource p s t) (j n : Nat) :
    physical t p j n = physical s p j n := by
  simp only [Machine.physical, srcBytes, show Machine.srcByte t p = Machine.srcByte s p from funext h.srcByte]

theorem SameSource.toCome {p : Port} {s t : State} (h : SameSource p s t)
    (hcur : (t.port p).txcur = (s.port p).txcur) (hlen : (t.port p).txlen = (s.port p).txlen) :
    toCome t p = toCome s p := by
  simp only [Machine.toCome, h.physical, hcur, hlen]

/-- Registers of the port other than the source registers are no part of the source. -/
theorem sameSource_setPort {p : Port} {s : State} {q : PortState} (hsrc : q.txsrc = (s.port p).txsrc)
    (hbuf : q.txbuf = (s.port p).txbuf) (hstg : q.txstg = (s.port p).txstg) : SameSource p s (s.setPort p q) := by
  refine ⟨rfl, rfl, ?_, ?_, ?_⟩ <;> rw [setPort_port_self] <;> assumption

/-! ### `PACK` -/

theorem sameSource_txPack (p : Port) (s : State) : SameSource p (packed p s).after (txPack p s) :=
  sameSource_setPort rfl rfl rfl

/-- What `PACK` does in a transmit that keeps its invariant (R126, R128, R131): the word takes the next bytes of the
stream, and of the source only `LF` bytes become `SENTINEL`. -/
structure PackSpec (p : Port) (s t : State) : Prop where
  source : SourceOnly p s (packed p s).after
  word : (t.port p).txword = fillLanes 0 0 ((toCome s p).take (nslots (s.port p).txc (s.port p).txi))
  toCome : toCome t p = (toCome s p).drop (nslots (s.port p).txc (s.port p).txi)
  cursor : (t.port p).txcur ≤ (s.port p).txlen
  bytes : ∀ k, k < (s.port p).txlen →
    srcByte t p k = srcByte s p k ∨ srcByte s p k = lf ∧ srcByte t p k = sentinel
  outside : ∀ a, ((s.port p).txsrc = .mem → ∀ k, k < (s.port p).txlen → a ≠ srcAddr s p k) →
    t.mem.read a = s.mem.read a

theorem txPack_spec {p : Port} {s : State} (hm : s.mem.wf = true) (hinv : TxInv s p) (hbusy : (s.port p).txs ≠ .idle)
    (hsub : (s.port p).txsub = .pack) : PackSpec p s (txPack p s) := by
  obtain ⟨hso, -, hcur, hword, hstream, hbytes, hout⟩ := packFrom_spec (nslots (s.port p).txc (s.port p).txi) 0 0 hm
    (hinv.bounds hbusy).srcFits (hinv.cursor_le hbusy) (hinv.nslots_le hbusy hsub)
  have hport : (txPack p s).port p = { (packed p s).after.port p with
      txword := (packed p s).word, txcur := (packed p s).cur, txsub := .pollTxrdy } := setPort_port_self _ _ _
  have hsame := sameSource_txPack p s
  refine ⟨hso, ?_, ?_, ?_, fun k hk => ?_, hout⟩
  · rw [hport]
    exact hword
  · rw [toCome, hsame.physical, hport]
    exact (congrArg (fun n => physical (packed p s).after p (packed p s).cur (n - (packed p s).cur)) hso.txlen).trans
      hstream
  · rw [hport]
    exact hcur
  · rw [hsame.srcByte]
    exact (hbytes k hk).imp_right fun ⟨_, _, hlf, hsent⟩ => ⟨hlf, hsent⟩

/-! ### The length of the physical stream -/

theorem length_flatMap_expand (bs : List Byte) : (bs.flatMap expand).length = bs.length + bs.count lf := by
  induction bs with
  | nil => rfl
  | cons b bs ih =>
    rw [List.flatMap_cons, List.length_append, ih, List.length_cons, List.count_cons]
    have hexpand : (expand b).length = 1 + if (b == lf) = true then 1 else 0 := by
      unfold expand
      by_cases hlf : b = lf
      · simp [hlf]
      · by_cases hsent : b = sentinel
        · simp [hsent, lf, sentinel]
        · simp [hlf, hsent]
    omega

/-- Before anything is packed, the stream to come has `C` bytes (R124, R128). -/
theorem length_physical_all (s : State) (p : Port) : (physical s p 0 (s.port p).txlen).length = charCount s p := by
  rw [physical, length_flatMap_expand, charCount]
  simp [srcBytes]

/-! ### Every step keeps the ledger -/

theorem txInv_of_idle {s : State} {p : Port} (h : (s.port p).txs = .idle) : TxInv s p := fun hbusy => absurd h hbusy

/-- A step that changes of the transmit only `TXS` and `TXSUB` keeps the ledger, if the word in hand stays. -/
theorem TxInv.of_same_transmit {p : Port} {s t : State} (h : TxInv s p) (hbusy : (s.port p).txs ≠ .idle)
    (hc : t.cfg = s.cfg) (hm : t.mem = s.mem) {txs : TxState} {sub : TxSub}
    (hport : t.port p = { s.port p with txs := txs, txsub := sub }) (hs : (s.port p).txsub ≠ .restore)
    (ht : sub ≠ .restore) (hhand : inHand { s.port p with txs := txs, txsub := sub } = inHand (s.port p)) :
    TxInv t p := by
  obtain ⟨hi, hledger⟩ := h.ledger hbusy hs
  have hsame : SameSource p s t := ⟨hc, hm, by rw [hport], by rw [hport], by rw [hport]⟩
  intro _
  refine ⟨?_, fun hrest => absurd (by rw [hport] at hrest; exact hrest) ht, fun _ => ?_⟩
  · rw [TxBounds, hport, hc]
    exact h.bounds hbusy
  · rw [hsame.toCome (by rw [hport]) (by rw [hport]), hport, hhand]
    exact ⟨hi, hledger⟩

theorem txPack_txInv {p : Port} {s : State} (hm : s.mem.wf = true) (hinv : TxInv s p)
    (hbusy : (s.port p).txs ≠ .idle) (hsub : (s.port p).txsub = .pack) : TxInv (txPack p s) p := by
  have hspec := txPack_spec hm hinv hbusy hsub
  have hfit := hinv.nslots_le hbusy hsub
  obtain ⟨hi, hledger⟩ := hinv.ledger hbusy (by simp [hsub])
  obtain ⟨h1, h2, h3, h4, h5, h6, h7, h8, h9⟩ := hinv.bounds hbusy
  have hcur := hspec.cursor
  have hstream := congrArg List.length hspec.toCome
  obtain ⟨m, es, b, w, cur, hpack⟩ := txPack_shape p s
  have hport : (txPack p s).port p =
      { s.port p with txstg := b, txword := w, txcur := cur, txsub := .pollTxrdy } := by
    rw [hpack]
    exact port_of_set rfl
  have hcfg : (txPack p s).cfg = s.cfg := by rw [hpack]
  rw [hport] at hcur
  rw [List.length_drop] at hstream
  rw [inHand, if_neg (by simp [hsub])] at hledger
  intro _
  rw [TxBounds, TxLedger, hstream, hcfg, hport]
  refine ⟨⟨h1, h2, hcur, h4, h5, h6, h7, h8, h9⟩, by simp, fun _ => ⟨hi, ?_⟩⟩
  rw [inHand, if_pos (.inl rfl)]
  simp only [wordBytes]
  omega

theorem txPush_txInv {p : Port} {s : State} (hinv : TxInv s p) (hbusy : (s.port p).txs ≠ .idle)
    (hsub : (s.port p).txsub = .push) : TxInv (txPush p s) p := by
  obtain ⟨hi, hledger⟩ := hinv.ledger hbusy (by simp [hsub])
  obtain ⟨h1, h2, h3, h4, h5, h6, h7, h8, h9⟩ := hinv.bounds hbusy
  rw [inHand, if_pos (.inr hsub), nslots_eq] at hledger
  have hw := h7
  rw [wordCount_eq] at hw
  intro _
  obtain hmore | hlast := Nat.lt_or_ge ((s.port p).txi + 1) (s.port p).txw
  · have hpush := txPush_next hmore
    have hport : (txPush p s).port p = { s.port p with txi := (s.port p).txi + 1, txsub := .pack } := by
      rw [hpush]
      exact port_of_set rfl
    have hcfg : (txPush p s).cfg = s.cfg := by rw [hpush]
    have hsame : SameSource p s (txPush p s) :=
      ⟨hcfg, by rw [hpush], by rw [hport], by rw [hport], by rw [hport]⟩
    rw [TxBounds, TxLedger, hsame.toCome (by rw [hport]) (by rw [hport]), hcfg, hport]
    refine ⟨⟨h1, h2, h3, h4, h5, h6, h7, h8, h9⟩, by simp, fun _ => ⟨hmore, ?_⟩⟩
    rw [inHand, if_neg (by simp)]
    simp only [wordBytes]
    omega
  · have hpush := txPush_last hlast
    have hport : (txPush p s).port p = { s.port p with txi := (s.port p).txi + 1, txsub := .restore } := by
      rw [hpush]
      exact port_of_set rfl
    have hcfg : (txPush p s).cfg = s.cfg := by rw [hpush]
    have hlen : (s.port p).txlen - (s.port p).txcur ≤ (toCome s p).length := physical_length_pos
    have hend : (s.port p).txi + 1 = (s.port p).txw ∧ (s.port p).txcur = (s.port p).txlen := by omega
    rw [TxBounds, TxLedger, hcfg, hport]
    exact ⟨⟨h1, h2, h3, h4, h5, h6, h7, h8, h9⟩, fun _ => hend, by simp⟩

theorem txStep_txInv {p : Port} {s t : State} (hm : s.mem.wf = true) (hinv : TxInv s p)
    (hbusy : (s.port p).txs ≠ .idle) (h : txStep p s = .next t) : TxInv t p := by
  cases txStep_outcome h with
  | polled x hx q hq =>
    refine hinv.of_same_transmit hbusy rfl rfl ((setPort_port_self _ _ _).trans hq.same) hq.before hq.after ?_
    rw [← hq.same]
    exact hq.inHand
  | entered htxs hsub =>
    rw [txCriticalWrite_eq]
    exact hinv.of_same_transmit hbusy rfl rfl (port_of_set rfl) (by simp [hsub]) (by simp) (by simp [inHand, hsub])
  | packed htxs hsub => exact txPack_txInv hm hinv hbusy hsub
  | pushed htxs hsub hmore => exact txPush_txInv hinv hbusy hsub
  | pushedLast htxs hsub hlast => exact txPush_txInv hinv hbusy hsub
  | ended htxs hsub =>
    obtain ⟨m, es, b, hrestore⟩ := txRestore_shape p s
    rw [hrestore]
    exact txInv_of_idle (by rw [port_of_set rfl])

/-- The registers that the checks of a request let a transmit start from. -/
theorem StartsFrom.source_bounds {s u : State} {p : Port} {i : Instr} (h : StartsFrom s p i u) :
    1 ≤ (u.port p).txlen ∧ (u.port p).txlen ≤ 2 ^ 31 - 1 ∧
    ((u.port p).txsrc = .mem → (u.port p).txbuf ≠ 0 ∧ (u.port p).txbuf + (u.port p).txlen ≤ 2 ^ s.cfg.addrW) ∧
    ((u.port p).txsrc = .stage → (u.port p).txlen = 1) := by
  cases h with
  | putc port byte => simp
  | write port buf len hbuf hlen hrange =>
    have hlt := toNat_lt_of_signedLen_pos hlen
    have hpos : len.toNat ≠ 0 := fun hzero => by
      simp [signedLen, BitVec.toInt_eq_toNat_cond, hzero] at hlen
    rw [writeSource_port]
    exact ⟨Nat.one_le_iff_ne_zero.2 hpos, Nat.le_pred_of_lt hlt, fun _ => ⟨hbuf, hrange⟩, by simp⟩

/-- A transmit starts with the ledger of its whole stream to come. -/
theorem started_txInv {s u : State} {p : Port} {i : Instr} (hstart : StartsFrom s p i u)
    (hfits : charCount u p ≤ 2 ^ s.cfg.ncharW - 1) :
    TxInv ((counted p u).setPort p (txStarted (charCount u p) (u.port p))) p := by
  obtain ⟨hpos, hmax, hmem, hstage⟩ := hstart.source_bounds
  have hle := charCount_le u p
  have hge : (u.port p).txlen ≤ charCount u p := Nat.le_add_right _ _
  have hcfg : ((counted p u).setPort p (txStarted (charCount u p) (u.port p))).cfg = s.cfg := hstart.cfg
  have hsame : SameSource p u ((counted p u).setPort p (txStarted (charCount u p) (u.port p))) :=
    ⟨rfl, rfl, by rw [setPort_port_self]; rfl, by rw [setPort_port_self]; rfl, by rw [setPort_port_self]; rfl⟩
  have hcome : toCome ((counted p u).setPort p (txStarted (charCount u p) (u.port p))) p =
      physical u p 0 (u.port p).txlen := by
    rw [toCome, hsame.physical, setPort_port_self]
    rfl
  intro _
  rw [TxBounds, TxLedger, hcome, hcfg, setPort_port_self, length_physical_all]
  refine ⟨⟨hpos, hmax, Nat.zero_le _, Nat.le_trans hpos hge, hle, hfits, rfl, hmem, hstage⟩, by simp [txStarted],
    fun _ => ⟨?_, rfl⟩⟩
  simp only [txStarted, wordCount_eq]
  omega

theorem exec_txInv {i : Instr} {s t : State} (hidle : ∀ p : Port, (s.port p).txs = .idle) (h : exec i s = .next t)
    (r : Port) : TxInv t r := by
  have hset {p : Port} {q : PortState} {u : State} (hu : u.port r = s.port r) (hq : q.txs = .idle) :
      TxInv (u.setPort p q) r := by
    refine txInv_of_idle ?_
    rw [setPort_port]
    split_ifs
    · exact hq
    · rw [hu]
      exact hidle r
  cases exec_outcome h with
  | cached port wait p hp => exact hset (u := activate .getChar port s) rfl (hidle p)
  | fetching port wait p hp hempty => exact hset rfl (hidle p)
  | tooWide p u hp hstart =>
    obtain ⟨src, buf, stg, len, rfl, -⟩ := hstart.eq
    exact hset (u := activate i.op i.port s) rfl (hidle p)
  | started p u hp hstart hfits =>
    by_cases hr : r = p
    · subst hr
      exact started_txInv hstart hfits
    · refine txInv_of_idle ?_
      obtain ⟨src, buf, stg, len, rfl, -⟩ := hstart.eq
      rw [setPort_port_ne _ _ hr, counted_port, setPort_port_ne _ _ hr]
      exact hidle r
  | _ => exact txInv_of_idle (hidle r)

/-! ### The response registers -/

theorem statusCode_mem (st : Status) : statusCode st ∈ statusCodes := by cases st <;> decide

theorem ResponseInv.of_same {s t : State} (h : ResponseInv s) (hc : t.cfg = s.cfg) (hst : t.rspStatus = s.rspStatus)
    (hd : t.rspData = s.rspData) : ResponseInv t := by
  rw [ResponseInv, hc, hst, hd]
  exact h

theorem responseInv_respond {s : State} (st : Status) {d : Nat} (hd : d < 2 ^ s.cfg.addrW) :
    ResponseInv (respond st d s) := ⟨statusCode_mem st, hd⟩

/-- A byte is a value of a bus of at least 32 bits. -/
theorem lt_addrW_of_lt_256 {s : State} (hwf : s.cfg.wf = true) {d : Nat} (hd : d < 256) : d < 2 ^ s.cfg.addrW :=
  Nat.lt_of_lt_of_le hd (Nat.pow_le_pow_right (by decide : 0 < 2)
    (Nat.le_trans (by decide : 8 ≤ 32) (goodOffsets_of_wf hwf).width))

theorem exec_responseInv {i : Instr} {s t : State} (hwf : s.cfg.wf = true) (hreg : RegistryInv s) (hs : ResponseInv s)
    (h : exec i s = .next t) : ResponseInv t := by
  cases exec_outcome h with
  | answered st d hd =>
    refine responseInv_respond st ?_
    obtain rfl | ⟨p, rfl⟩ := hd
    · exact Nat.two_pow_pos _
    · exact (hreg p).2.1
  | registered port uartBase clkBase halign hfree =>
    exact responseInv_respond .success (lt_addrW_of_lt_256 hwf (Nat.lt_trans hfree (by decide)))
  | cached port wait p hp => exact responseInv_respond .success (lt_addrW_of_lt_256 hwf (BitVec.isLt _))
  | tooWide p u hp hstart =>
    obtain ⟨_, _, _, _, rfl, -⟩ := hstart.eq
    exact hs.of_same rfl rfl rfl
  | started p u hp hstart hfits =>
    obtain ⟨_, _, _, _, rfl, -⟩ := hstart.eq
    exact hs.of_same rfl rfl rfl
  | _ => exact hs.of_same rfl rfl rfl

theorem txStep_responseInv {p : Port} {s t : State} (hs : ResponseInv s) (h : txStep p s = .next t) :
    ResponseInv t := by
  cases txStep_outcome h with
  | polled x hx q hq => exact hs.of_same rfl rfl rfl
  | entered htxs hsub => exact hs.of_same rfl rfl rfl
  | packed htxs hsub =>
    obtain ⟨m, es, b, w, cur, hpack⟩ := txPack_shape p s
    rw [hpack]
    exact hs.of_same rfl rfl rfl
  | pushed htxs hsub hmore =>
    rw [txPush_next hmore]
    exact hs.of_same rfl rfl rfl
  | pushedLast htxs hsub hlast =>
    rw [txPush_last hlast]
    exact hs.of_same rfl rfl rfl
  | ended htxs hsub =>
    obtain ⟨m, es, b, hrestore⟩ := txRestore_shape p s
    rw [hrestore]
    exact ⟨statusCode_mem .success, Nat.two_pow_pos _⟩

theorem rxStep_responseInv {p : Port} {s t : State} (hwf : s.cfg.wf = true) (hs : ResponseInv s)
    (h : rxStep p s = .next t) : ResponseInv t := by
  cases rxStep_outcome h with
  | fetching u hu q hq hrxs hrxc => cases hu <;> exact hs.of_same rfl rfl rfl
  | answered u hu q hq hrxs st d hd =>
    refine responseInv_respond st ?_
    rw [setPort_cfg, hu.keeps.cfg]
    exact lt_addrW_of_lt_256 hwf hd

/-! ### The whole invariant -/

/-- Settles O51: the parameters are legal, nothing is registered, and every port is as reset leaves it. -/
theorem invHoldsAtReset : Obligations.InvHoldsAtReset where
  params := Config.legal.legal
  mem := ⟨rfl, by simp [State.reset]⟩
  registry p := by simp [State.reset]
  response := ⟨statusCode_mem .success, Nat.two_pow_pos _⟩
  control := controlInv_of_reset_ports rfl rfl rfl (PerPort.get_all PortState.reset)
  transmit p := txInv_of_idle (by rw [State.port, State.reset, PerPort.get_all]; rfl)

theorem takeClient_keeps_response {s t : State} (hinv : Inv s) (h : takeClient s = .next t) : ResponseInv t := by
  obtain ⟨-, rfl⟩ | ⟨a, v, rest, -, rfl⟩ | ⟨r, rest, why, -, -, rfl⟩ | ⟨r, rest, i, -, -, he⟩ := takeClient_cases h
  · exact hinv.response
  · exact hinv.response
  · exact responseInv_respond .errIllegal (Nat.two_pow_pos _)
  · exact exec_responseInv (s := { s with client := rest }) hinv.params hinv.registry hinv.response he

theorem takeClient_keeps_transmit {s t : State} (hidle : ∀ p : Port, (s.port p).txs = .idle)
    (h : takeClient s = .next t) (r : Port) : TxInv t r := by
  obtain ⟨-, rfl⟩ | ⟨a, v, rest, -, rfl⟩ | ⟨r', rest, why, -, -, rfl⟩ | ⟨r', rest, i, -, -, he⟩ := takeClient_cases h
  · exact txInv_of_idle (hidle r)
  · exact txInv_of_idle (hidle r)
  · exact txInv_of_idle (hidle r)
  · exact exec_txInv (s := { s with client := rest }) hidle he r

theorem advance_keeps_response {op : Op} {port : PortField} {s t : State} (hinv : Inv s)
    (h : advance op port s = .next t) : ResponseInv t := by
  obtain ⟨p, -, ⟨-, htx⟩ | ⟨-, hrx⟩⟩ := advance_cases h
  · exact txStep_responseInv hinv.response htx
  · exact rxStep_responseInv hinv.params hinv.response hrx

/-- Of the ports only the one that sends has a transmit in progress, and its step keeps the ledger. -/
theorem advance_keeps_transmit {op : Op} {port : PortField} {s t : State} (hinv : Inv s) (hm : s.mode = .run)
    (hr : s.refused = none) (ha : s.active = some (op, port)) (h : advance op port s = .next t) (r : Port) :
    TxInv t r := by
  obtain ⟨p, hp, hfsm⟩ := advance_cases h
  obtain ⟨hserv, hquiet⟩ := (activeOk_busy_iff hm hr ha hp).1 hinv.control.1
  by_cases hrp : r = p
  · subst hrp
    obtain ⟨hop, htx⟩ | ⟨rfl, hrx⟩ := hfsm
    · exact txStep_txInv hinv.mem.1 (hinv.transmit r) ((Serving.send hop).1 hserv).1 htx
    · exact txInv_of_idle ((rxStep_changesOnlyAt hrx).own.txs.trans (Serving.getChar.1 hserv).1)
  · refine txInv_of_idle ?_
    rw [advance_other_port hp h hrp]
    exact (hquiet r hrp).1

/-- Settles O55: each part of the invariant is kept, by the cases of a step. -/
theorem stepsKeepTheInvariant : Obligations.StepsKeepTheInvariant := by
  intro s t hinv h
  have hrest : ResponseInv t ∧ ∀ p : Port, TxInv t p := by
    obtain ⟨hr, ⟨-, rfl⟩ | ⟨-, hm, ha, htake⟩ | ⟨-, hm, op, port, ha, hadv⟩⟩ := step_cases h
    · exact ⟨⟨statusCode_mem .success, Nat.two_pow_pos _⟩, fun p => txInv_of_idle (by rw [resetBlock_port]; rfl)⟩
    · have hidle (p : Port) : (s.port p).txs = .idle := ((activeOk_free hm hr ha).1 hinv.control.1 p).1
      exact ⟨takeClient_keeps_response hinv htake, takeClient_keeps_transmit hidle htake⟩
    · exact ⟨advance_keeps_response hinv hadv, advance_keeps_transmit hinv hm hr ha hadv⟩
  exact {
    params := (step_cfg h).symm ▸ hinv.params
    mem := stepsKeepMemoryCanonical s t hinv.mem h
    registry := stepsKeepTheRegistry s t hinv.registry h
    response := hrest.1
    control := stepsKeepControl s t hinv.control h
    transmit := hrest.2 }

/-! ### The step of `PACK` -/

/-- Packing the staging byte of a PUT_CHAR leaves client memory alone. -/
theorem packFrom_stage_mem {p : Port} {s : State} (hsrc : (s.port p).txsrc = .stage) (n j : Nat) (w : Word)
    (cur : Nat) : (packFrom p n j w cur s).after.mem = s.mem := by
  have hkeep := packFrom_keeps (p := p) (P := fun u => (u.port p).txsrc = .stage ∧ u.mem = s.mem)
    (fun k u hu => by simpa using hu)
    (fun k v u hu => by
      rw [srcWrite_of_stage hu.1, setPort_port_self]
      exact hu)
    n j w cur ⟨hsrc, rfl⟩
  exact hkeep.2

/-- Packing the buffer of a WRITE leaves the staging byte alone. -/
theorem packFrom_mem_txstg {p : Port} {s : State} (hsrc : (s.port p).txsrc = .mem) (n j : Nat) (w : Word) (cur : Nat) :
    ((packFrom p n j w cur s).after.port p).txstg = (s.port p).txstg := by
  have hkeep := packFrom_keeps (p := p)
    (P := fun u => (u.port p).txsrc = .mem ∧ (u.port p).txstg = (s.port p).txstg)
    (fun k u hu => by simpa using hu)
    (fun k v u hu => by
      rw [srcWrite_of_mem hu.1]
      exact hu)
    n j w cur ⟨hsrc, rfl⟩
  exact hkeep.2

theorem txPack_txstg {p : Port} {s : State} (hsrc : (s.port p).txsrc = .mem) :
    ((txPack p s).port p).txstg = (s.port p).txstg :=
  (sameSource_txPack p s).txstg.trans (packFrom_mem_txstg hsrc _ _ _ _)

/-- Settles O26: the invariant lets the word take its slots from the stream to come. -/
theorem packTakesTheNextPhysicalBytes : Obligations.PackTakesTheNextPhysicalBytes := by
  intro s op p hinv hprog hop htxs hsub n
  have hbusy : (s.port p).txs ≠ .idle := by simp [htxs]
  have hspec := txPack_spec hinv.mem.1 (hinv.transmit p) hbusy hsub
  have hfit : n ≤ (toCome s p).length := (hinv.transmit p).nslots_le hbusy hsub
  have hn : n ≤ 4 := Nat.min_le_left _ _
  have hstep : txStep p s = .next (txPack p s) := by simp only [txStep, htxs, hsub]
  have hserv := hprog.serving hinv.control
  obtain ⟨es, htrace, hmem, hstage, hreads⟩ := passEvents_packFrom p n 0 0 (s.port p).txcur s
  obtain ⟨m, fs, b, w, cur, hpack⟩ := txPack_shape p s
  have hlane {j : Nat} (hj : j < 4) : laneGet ((txPack p s).port p).txword j = (((toCome s p).take n)[j]?).getD 0 := by
    rw [hspec.word]
    exact laneGet_fillLanes_zero _ hj
  refine ⟨txPack p s, es, (hprog.step_eq_txStep hop).trans hstep, hfit, fun j hj => ?lane, fun j hnj hj => ?zero,
    hspec.toCome, hspec.cursor, ?own, (txStep_changesOnlyAt hstep).other, ?frame, hmem, ?putChar, ?write, hspec.bytes,
    fun a ha => hspec.outside a fun _ => ha⟩
  case lane =>
    rw [hlane (by omega), List.getElem?_take_of_lt hj, List.getElem?_eq_getElem (by omega)]
    rfl
  case zero =>
    rw [hlane hj, List.getElem?_eq_none (by rw [List.length_take]; omega)]
    rfl
  case own => rw [hpack, port_of_set rfl]
  case frame =>
    have htrace' : (txPack p s).trace = s.trace ++ es := htrace
    rw [← htrace', hpack]
  case putChar =>
    rintro rfl
    have hsrc := Serving.txsrc_putChar hserv
    exact ⟨hstage hsrc, packFrom_stage_mem hsrc _ _ _ _⟩
  case write =>
    rintro rfl
    have hsrc := Serving.txsrc_write hserv
    exact ⟨hreads hsrc, txPack_txstg hsrc⟩

/-! ### What a step changes of client memory -/

theorem srcByte_of_mem {p : Port} {s : State} (h : (s.port p).txsrc = .mem) (k : Nat) :
    srcByte s p k = s.mem.read (srcAddr s p k) := by
  simp only [srcByte, h]

/-- A byte that a pass over the source changes is a byte of the source of a WRITE. -/
theorem inside_of_read_ne {p : Port} {s t : State} {a : Nat}
    (hout : ((s.port p).txsrc = .mem → ∀ k, k < (s.port p).txlen → a ≠ srcAddr s p k) → t.mem.read a = s.mem.read a)
    (hne : t.mem.read a ≠ s.mem.read a) :
    (s.port p).txsrc = .mem ∧ ∃ k, k < (s.port p).txlen ∧ a = srcAddr s p k := by
  by_contra hnot
  refine hne (hout fun hsrc k hk heq => hnot ⟨hsrc, k, hk, heq⟩)

/-- The changes of one byte of client memory by a step of a transmit: `PACK` marks an `LF` of the buffer, `RESTORE`
turns a `SENTINEL` of it back. -/
theorem txStep_read_ne {p : Port} {s t : State} (hm : s.mem.wf = true) (hinv : TxInv s p) (h : txStep p s = .next t)
    {a : Nat} (hne : t.mem.read a ≠ s.mem.read a) :
    (s.port p).txsrc = .mem ∧ ∃ k, k < (s.port p).txlen ∧ a = srcAddr s p k ∧
      (((s.port p).txsub = .pack ∧ s.mem.read a = lf ∧ t.mem.read a = sentinel) ∨
       ((s.port p).txsub = .restore ∧ s.mem.read a = sentinel ∧ t.mem.read a = lf)) := by
  cases txStep_outcome h with
  | polled x hx q hq => exact absurd rfl hne
  | entered htxs hsub => exact absurd rfl hne
  | packed htxs hsub =>
    have hspec := txPack_spec hm hinv (by simp [htxs]) hsub
    obtain ⟨hsrc, k, hk, rfl⟩ := inside_of_read_ne (hspec.outside a) hne
    have hbyte := hspec.bytes k hk
    have hsame := sameSource_txPack p s
    rw [srcByte_of_mem hsrc, srcByte_of_mem (hsame.txsrc.trans (hspec.source.txsrc.trans hsrc)), hsame.srcAddr,
      hspec.source.srcAddr] at hbyte
    exact ⟨hsrc, k, hk, rfl, .inl ⟨hsub, hbyte.resolve_left hne⟩⟩
  | pushed htxs hsub hmore =>
    rw [txPush_next hmore] at hne
    exact absurd rfl hne
  | pushedLast htxs hsub hlast =>
    rw [txPush_last hlast] at hne
    exact absurd rfl hne
  | ended htxs hsub =>
    obtain ⟨hso, hbytes, hout⟩ := restoreFrom_spec (s.port p).txlen 0 hm (hinv.bounds (by simp [htxs])).srcFits
      (Nat.zero_add _).le
    obtain ⟨hsrc, k, hk, rfl⟩ := inside_of_read_ne (hout a) hne
    have hbyte := hbytes k hk
    rw [if_pos (by omega), srcByte_of_mem hsrc, srcByte_of_mem (hso.txsrc.trans hsrc), hso.srcAddr, restored] at hbyte
    have hsent : s.mem.read (srcAddr s p k) = sentinel := by
      by_contra hnot
      rw [if_neg hnot] at hbyte
      exact hne hbyte
    rw [if_pos hsent] at hbyte
    exact ⟨hsrc, k, hk, rfl, .inr ⟨hsub, hsent, hbyte⟩⟩

theorem port_eq_ofNat {s : State} {port : PortField} {p : Port} (hp : Registered s port p) :
    port = BitVec.ofNat 8 p.val := BitVec.eq_of_toNat_eq (hp.1.trans (toNat_ofPort p).symm)

/-- Settles O49: only the client's own store, `PACK` and `RESTORE` write client memory. -/
theorem clientMemoryChangesOnlyInTheBuffer : Obligations.ClientMemoryChangesOnlyInTheBuffer := by
  intro s t hinv hpin h a hne
  obtain ⟨hr, ⟨hpin', -⟩ | ⟨-, hm, ha, htake⟩ | ⟨-, hm, op, port, ha, hadv⟩⟩ := step_cases h
  · simp [hpin] at hpin'
  · obtain ⟨-, rfl⟩ | ⟨b, v, rest, hc, rfl⟩ | ⟨r, rest, why, -, -, rfl⟩ | ⟨r, rest, i, -, -, he⟩ :=
      takeClient_cases htake
    · exact absurd rfl hne
    · have haddr : a = busAddr s b := by_contra fun hother => hne (Memory.read_write_ne hother)
      exact .inl ⟨ha, b, v, rest, hc, haddr, haddr ▸ Memory.read_write_self hinv.mem.1⟩
    · exact absurd rfl hne
    · exact absurd (congrArg (Memory.read · a) (exec_keeps he).mem) hne
  · obtain ⟨p, hp, ⟨hop, htx⟩ | ⟨-, hrx⟩⟩ := advance_cases hadv
    · obtain ⟨hsrc, k, hk, haddr, hchange⟩ := txStep_read_ne hinv.mem.1 (hinv.transmit p) htx hne
      obtain ⟨hserv, -⟩ := (activeOk_busy_iff hm hr ha hp).1 hinv.control.1
      obtain rfl : op = .write := by
        obtain rfl | rfl := hop
        · simp [Serving.txsrc_putChar hserv] at hsrc
        · rfl
      exact .inr ⟨p, k, ⟨hr, hpin, hm, port_eq_ofNat hp ▸ ha, hp.2⟩, hk, haddr, hchange⟩
    · exact absurd (congrArg (Memory.read · a) (rxStep_mem hrx)) hne

end Sys2Proof.Machine
end

section
/-! The states that one request goes through from the state that accepted it: what they change of that state, and what
each access and each FSM step adds (42_transmit.md R144 to R149, R152; 43_receive.md R171 to R178). -/

namespace Sys2Proof.Machine

/-! ### A request on its way -/

/-- How far a request in progress has come: the registers of its port, client memory, the answers not yet taken, the
reads made, and the events recorded, the last two counted from the state the request began in. -/
structure Progress where
  port : PortState
  mem : Memory
  answers : List Word
  reads : Nat
  events : List Event

namespace Progress

/-- The state that a request of operation `op` on port `p`, begun in `s`, has come to. -/
def state (op : Op) (p : Port) (s : State) (g : Progress) : State :=
  { s with
    active := some (op, BitVec.ofNat 8 p.val), ports := s.ports.set p g.port, mem := g.mem, answers := g.answers
    draws := s.draws + g.reads, trace := s.trace ++ g.events }

/-- The state after the request's response. -/
def final (p : Port) (s : State) (st : Status) (d : Nat) (g : Progress) : State :=
  { s with
    active := none, rspStatus := statusCode st, rspData := d, ports := s.ports.set p g.port, mem := g.mem
    answers := g.answers, draws := s.draws + g.reads, trace := s.trace ++ (g.events ++ [.rsp (statusCode st) d]) }

/-- After more events. -/
def log (es : List Event) (g : Progress) : Progress := { g with events := g.events ++ es }

/-- After the reads `vs` of register `x`, with the answers `rest` left. -/
def readAll (p : Port) (s : State) (x : Reg) (vs rest : List Word) (g : Progress) : Progress :=
  { g with
    answers := rest, reads := g.reads + vs.length, events := g.events ++ vs.map (.rd (regAddr s p x)) }

/-- With other port registers. -/
def withPort (q : PortState) (g : Progress) : Progress := { g with port := q }

end Progress

variable {op : Op} {p : Port} {s : State} {g : Progress}

@[simp] theorem state_port : (g.state op p s).port p = g.port := PerPort.get_set_self _ _ _

@[simp] theorem log_port (es : List Event) : (g.log es).port = g.port := rfl

@[simp] theorem log_log (es fs : List Event) : (g.log es).log fs = g.log (es ++ fs) := by
  simp only [Progress.log, List.append_assoc]

@[simp] theorem readAll_port (x : Reg) (vs rest : List Word) : (g.readAll p s x vs rest).port = g.port := rfl

@[simp] theorem withPort_port (q : PortState) : (g.withPort q).port = q := rfl

@[simp] theorem withPort_withPort (q r : PortState) : (g.withPort q).withPort r = g.withPort r := rfl

@[simp] theorem log_withPort (q : PortState) (es : List Event) : (g.withPort q).log es = (g.log es).withPort q := rfl

@[simp] theorem final_port (st : Status) (d : Nat) : (g.final p s st d).port p = g.port := PerPort.get_set_self _ _ _

theorem final_port_ne {st : Status} {d : Nat} {r : Port} (h : r ≠ p) : (g.final p s st d).port r = s.port r :=
  PerPort.get_set_ne _ _ h

theorem setPort_state (q : PortState) : (g.state op p s).setPort p q = (g.withPort q).state op p s := by
  simp only [State.setPort, Progress.state, PerPort.set_set]
  rfl

theorem record_state (e : Event) : record e (g.state op p s) = (g.log [e]).state op p s := by
  simp only [record, Progress.state, Progress.log, List.append_assoc]

theorem regWrite_state (x : Reg) (v : Word) :
    regWrite p x v (g.state op p s) = (g.log [.wr (regAddr s p x) v]).state op p s := record_state _

theorem answer_state {v : Word} {rest : List Word} (h : g.answers = v :: rest) : answer (g.state op p s) = v :=
  answer_of_answers h

theorem regRead_state {v : Word} {rest : List Word} (h : g.answers = v :: rest) (x : Reg) :
    regRead p x (g.state op p s) = (g.readAll p s x [v] rest).state op p s := by
  simp only [regRead, busRead, record, Progress.state, Progress.readAll, h, List.tail_cons,
    List.append_assoc]
  rfl

theorem respond_state (st : Status) (d : Nat) : respond st d (g.state op p s) = g.final p s st d := by
  simp only [respond, record, Progress.state, Progress.final, List.append_assoc]

/-! ### Steps of a request on its way -/

/-- A state from which a request on port `p` may be on its way. -/
structure Ready (s : State) (p : Port) : Prop where
  refused : s.refused = none
  resetPin : s.resetPin = false
  mode : s.mode = .run
  registered : p.val < s.nports.val

theorem Ready.inProgress (h : Ready s p) (op : Op) (g : Progress) : InProgress op p (g.state op p s) :=
  ⟨h.refused, h.resetPin, h.mode, rfl, h.registered⟩

theorem InProgress.ready (h : InProgress op p s) : Ready s p :=
  ⟨h.1, h.2.1, h.2.2.1, h.2.2.2.2⟩

/-- A request in progress that has changed no register of its port and no byte is on its way from the state itself. -/
theorem state_of_inProgress (h : InProgress op p s) (answers : List Word) (reads : Nat) (events : List Event) :
    Progress.state op p s { port := s.port p, mem := s.mem, answers, reads, events } =
      { s with answers := answers, draws := s.draws + reads, trace := s.trace ++ events } := by
  obtain ⟨-, -, -, ha, -⟩ := h
  simp only [Progress.state, State.port, PerPort.set_get, ha]

/-- The start of a request in progress on its way from the state itself. -/
def Progress.start (s : State) (p : Port) : Progress :=
  { port := s.port p, mem := s.mem, answers := s.answers, reads := 0, events := [] }

theorem state_start (h : InProgress op p s) : (Progress.start s p).state op p s = s := by
  rw [Progress.start, state_of_inProgress h, List.append_nil]
  rfl

/-- The events of entering the critical section (R145). -/
def criticalEvents (p : Port) (s : State) (c : Nat) : List Event :=
  [.critEnter p, .wr (regAddr s p .nchar) (BitVec.ofNat 32 c), .wr (regAddr s p .cr) s.cfg.cmdResetTxready]

/-- The events of a push: the word, and after the last word the end of the section (R148, R149). -/
def pushEvents (p : Port) (s : State) (q : PortState) : List Event :=
  .wr (regAddr s p .tf) q.txword :: if q.txi + 1 < q.txw then [] else [.critExit p]

/-- After a push (R148, R149). -/
def Progress.pushed (p : Port) (s : State) (g : Progress) : Progress :=
  (g.log (pushEvents p s g.port)).withPort { g.port with
    txi := g.port.txi + 1, txsub := if g.port.txi + 1 < g.port.txw then .pack else .restore }

theorem txPush_state : txPush p (g.state op p s) = (g.pushed p s).state op p s := by
  simp only [txPush, Progress.pushed, pushEvents, setSub, critExit, record_state, regWrite_state, setPort_state,
    state_port, log_port, withPort_port, withPort_withPort, log_withPort, log_log]
  split_ifs <;> rfl

section Transmit

variable (hs : Ready s p) (hop : op = .putChar ∨ op = .write)

include hs hop

/-- The step of a transmit on its way is a step of its FSM. -/
theorem step_transmit (g : Progress) : step (g.state op p s) = txStep p (g.state op p s) :=
  (hs.inProgress op g).step_eq_txStep hop

theorem step_checkEmpty {v : Word} {rest : List Word} (htxs : g.port.txs = .waitFifoEmpty)
    (hsub : g.port.txsub = .checkEmpty) (hv : g.answers = v :: rest) :
    step (g.state op p s) = .next (((g.readAll p s .sr [v] rest).withPort
      (if v.getLsbD s.cfg.srTxemt then { g.port with txs := .criticalWrite, txsub := .none }
       else { g.port with txsub := .pollTxready })).state op p s) := by
  rw [step_transmit hs hop, txStep, state_port, htxs, hsub]
  simp only [txCheckEmpty_eq, regRead_state hv, setPort_state, answer_state hv, state_port]
  rfl

theorem step_pollTxready {v : Word} {rest : List Word} (htxs : g.port.txs = .waitFifoEmpty)
    (hsub : g.port.txsub = .pollTxready) (hv : g.answers = v :: rest) :
    step (g.state op p s) = .next (((g.readAll p s .isr [v] rest).withPort
      (if v.getLsbD s.cfg.isrTxready then { g.port with txs := .criticalWrite, txsub := .none }
       else g.port)).state op p s) := by
  rw [step_transmit hs hop, txStep, state_port, htxs, hsub]
  simp only [txPollTxready_eq, regRead_state hv, setPort_state, answer_state hv, state_port]
  rfl

theorem step_pollTxrdy {v : Word} {rest : List Word} (htxs : g.port.txs = .packAndDrain)
    (hsub : g.port.txsub = .pollTxrdy) (hv : g.answers = v :: rest) :
    step (g.state op p s) = .next (((g.readAll p s .sr [v] rest).withPort
      (if v.getLsbD s.cfg.srTxrdy then { g.port with txsub := .push } else g.port)).state op p s) := by
  rw [step_transmit hs hop, txStep, state_port, htxs, hsub]
  simp only [txPollTxrdy_eq, regRead_state hv, setPort_state, answer_state hv, state_port]
  rfl

theorem step_checkEmpty_seen {v : Word} {rest : List Word} (htxs : g.port.txs = .waitFifoEmpty)
    (hsub : g.port.txsub = .checkEmpty) (hv : g.answers = v :: rest) (hseen : v.getLsbD s.cfg.srTxemt = true) :
    step (g.state op p s) = .next (((g.readAll p s .sr [v] rest).withPort
      { g.port with txs := .criticalWrite, txsub := .none }).state op p s) := by
  rw [step_checkEmpty hs hop htxs hsub hv, if_pos hseen]

theorem step_pollTxready_seen {v : Word} {rest : List Word} (htxs : g.port.txs = .waitFifoEmpty)
    (hsub : g.port.txsub = .pollTxready) (hv : g.answers = v :: rest) (hseen : v.getLsbD s.cfg.isrTxready = true) :
    step (g.state op p s) = .next (((g.readAll p s .isr [v] rest).withPort
      { g.port with txs := .criticalWrite, txsub := .none }).state op p s) := by
  rw [step_pollTxready hs hop htxs hsub hv, if_pos hseen]

theorem step_pollTxrdy_seen {v : Word} {rest : List Word} (htxs : g.port.txs = .packAndDrain)
    (hsub : g.port.txsub = .pollTxrdy) (hv : g.answers = v :: rest) (hseen : v.getLsbD s.cfg.srTxrdy = true) :
    step (g.state op p s) = .next (((g.readAll p s .sr [v] rest).withPort
      { g.port with txsub := .push }).state op p s) := by
  rw [step_pollTxrdy hs hop htxs hsub hv, if_pos hseen]

theorem step_criticalWrite (htxs : g.port.txs = .criticalWrite) (hsub : g.port.txsub = .none) :
    step (g.state op p s) = .next (((g.log (criticalEvents p s g.port.txc)).withPort
      { g.port with txs := .packAndDrain, txsub := .pack }).state op p s) := by
  rw [step_transmit hs hop, txStep, state_port, htxs, hsub]
  simp only [txCriticalWrite, critEnter, record_state, regWrite_state, setPort_state, state_port, log_port, log_log]
  rfl

theorem step_push (htxs : g.port.txs = .packAndDrain) (hsub : g.port.txsub = .push) :
    step (g.state op p s) = .next ((g.pushed p s).state op p s) := by
  rw [step_transmit hs hop, txStep, state_port, htxs, hsub, ← txPush_state]

theorem step_pack (htxs : g.port.txs = .packAndDrain) (hsub : g.port.txsub = .pack) :
    step (g.state op p s) = .next (txPack p (g.state op p s)) := by
  rw [step_transmit hs hop, txStep, state_port, htxs, hsub]

theorem step_restore (htxs : g.port.txs = .packAndDrain) (hsub : g.port.txsub = .restore) :
    step (g.state op p s) = .next (txRestore p (g.state op p s)) := by
  rw [step_transmit hs hop, txStep, state_port, htxs, hsub]

/-! ### Polls -/

/-- `POLL_TXREADY` stays through answers without the latch (R144, R152). -/
theorem run_pollTxready (vs : List Word) {rest : List Word} {g : Progress} (htxs : g.port.txs = .waitFifoEmpty)
    (hsub : g.port.txsub = .pollTxready) (hvs : ∀ v ∈ vs, v.getLsbD s.cfg.isrTxready = false)
    (hans : g.answers = vs ++ rest) :
    run vs.length (g.state op p s) = .next ((g.readAll p s .isr vs rest).state op p s) := by
  induction vs generalizing g with
  | nil => simp [Progress.readAll, ← show g.answers = rest from hans]
  | cons v vs ih =>
    have hstep := step_pollTxready (rest := vs ++ rest) hs hop htxs hsub hans
    rw [if_neg (Bool.eq_false_iff.1 (hvs v List.mem_cons_self))] at hstep
    rw [List.length_cons, run_succ_next hstep, ih (g := (g.readAll p s .isr [v] (vs ++ rest)).withPort g.port) htxs hsub
      (fun w hw => hvs w (List.mem_cons_of_mem v hw)) rfl]
    simp [Progress.readAll, Progress.withPort, Nat.add_assoc, Nat.add_comm]

/-- `POLL_TXRDY` stays through answers without its bit (R147, R152). -/
theorem run_pollTxrdy (vs : List Word) {rest : List Word} {g : Progress} (htxs : g.port.txs = .packAndDrain)
    (hsub : g.port.txsub = .pollTxrdy) (hvs : ∀ v ∈ vs, v.getLsbD s.cfg.srTxrdy = false)
    (hans : g.answers = vs ++ rest) :
    run vs.length (g.state op p s) = .next ((g.readAll p s .sr vs rest).state op p s) := by
  induction vs generalizing g with
  | nil => simp [Progress.readAll, ← show g.answers = rest from hans]
  | cons v vs ih =>
    have hstep := step_pollTxrdy (rest := vs ++ rest) hs hop htxs hsub hans
    rw [if_neg (Bool.eq_false_iff.1 (hvs v List.mem_cons_self))] at hstep
    rw [List.length_cons, run_succ_next hstep, ih (g := (g.readAll p s .sr [v] (vs ++ rest)).withPort g.port) htxs hsub
      (fun w hw => hvs w (List.mem_cons_of_mem v hw)) rfl]
    simp [Progress.readAll, Progress.withPort, Nat.add_assoc, Nat.add_comm]

end Transmit

/-- Settles O30: by induction on the answers, each poll staying for one more read. -/
theorem transmitPollsRepeatWithoutBound : Obligations.TransmitPollsRepeatWithoutBound := by
  intro vs s op p rest hprog hop hans
  have hstart := state_start hprog
  have hend (x : Reg) : ((Progress.start s p).readAll p s x vs rest).state op p s =
      { s with
        answers := rest, draws := s.draws + vs.length, trace := s.trace ++ vs.map (.rd (regAddr s p x)) } := by
    rw [Progress.readAll, Progress.start, state_of_inProgress hprog, List.nil_append, Nat.zero_add]
  refine ⟨fun htxs hsub hvs => ?_, fun htxs hsub hvs => ?_⟩
  · have hrun := run_pollTxready hprog.ready hop vs (g := Progress.start s p) htxs hsub hvs hans
    rw [hstart] at hrun
    rw [hrun, hend]
  · have hrun := run_pollTxrdy hprog.ready hop vs (g := Progress.start s p) htxs hsub hvs hans
    rw [hstart] at hrun
    rw [hrun, hend]

end Sys2Proof.Machine
end

section
/-! 43_receive.md R170 to R178, R182: a fetch from its start to its response, or through fetches that find nothing. -/

namespace Sys2Proof.Machine

variable {p : Port} {s : State} {g : Progress}

/-! ### The sub-states of a fetch -/

theorem setRxs_state (x : RxState) :
    setRxs p x (g.state .getChar p s) = (g.withPort { g.port with rxs := x }).state .getChar p s := by
  rw [setRxs, setPort_state, state_port]

/-- Exit `READY` answers the first byte of the fetched word, and the cache keeps the rest (R172). -/
theorem rxReady_state :
    rxReady p (g.state .getChar p s) =
      (g.withPort { g.port with rxc := g.port.rxtmp >>> 8, rxs := .idle }).final p s .success
        (g.port.rxtmp.toNat % 256) := by
  rw [rxReady_eq, state_port, setPort_state, respond_state]

/-- The events of the overrun check: the read, and the clearing of an overrun it shows (R174, R175). -/
def overrunEvents (p : Port) (s : State) (v : Word) : List Event :=
  .rd (regAddr s p .sr) v :: if v.getLsbD s.cfg.srOverrun then [.wr (regAddr s p .cr) s.cfg.cmdResetErr] else []

section Fetch

variable (hs : Ready s p)

include hs

/-- The step of a fetch on its way is a step of its FSM. -/
theorem step_fetch (g : Progress) : step (g.state .getChar p s) = rxStep p (g.state .getChar p s) :=
  (hs.inProgress .getChar g).step_eq_rxStep

theorem step_ovrCheck {v : Word} {rest : List Word} (hrxs : g.port.rxs = .fOvrCheck) (hv : g.answers = v :: rest) :
    step (g.state .getChar p s) = .next (((g.readAll p s .sr [v] rest).withPort { g.port with
      rxs := if v.getLsbD s.cfg.srOverrun then .fOvrClear else .fRdyCheck }).state .getChar p s) := by
  rw [step_fetch hs, rxStep, state_port, hrxs]
  simp only [rxOvrCheck, regRead_state hv, setRxs_state, answer_state hv]
  rfl

theorem step_ovrClear (hrxs : g.port.rxs = .fOvrClear) :
    step (g.state .getChar p s) = .next (((g.log [.wr (regAddr s p .cr) s.cfg.cmdResetErr]).withPort
      { g.port with rxs := .fRdyCheck }).state .getChar p s) := by
  rw [step_fetch hs, rxStep, state_port, hrxs]
  simp only [rxOvrClear, regWrite_state, setRxs_state]
  rfl

theorem step_rdyCheck {v : Word} {rest : List Word} (hrxs : g.port.rxs = .fRdyCheck) (hv : g.answers = v :: rest) :
    step (g.state .getChar p s) = .next (((g.readAll p s .sr [v] rest).withPort { g.port with
      rxs := if v.getLsbD s.cfg.srRxrdy then .fRead else .fOccCheck }).state .getChar p s) := by
  rw [step_fetch hs, rxStep, state_port, hrxs]
  simp only [rxRdyCheck, regRead_state hv, setRxs_state, answer_state hv]
  rfl

theorem step_read {v : Word} {rest : List Word} (hrxs : g.port.rxs = .fRead) (hv : g.answers = v :: rest) :
    step (g.state .getChar p s) = .next (((g.readAll p s .rf [v] rest).withPort
      { g.port with rxtmp := v, rxc := v >>> 8, rxs := .idle }).final p s .success (v.toNat % 256)) := by
  rw [step_fetch hs, rxStep, state_port, hrxs]
  simp only [rxRead, rxReadWord, regRead_state hv, setPort_state, answer_state hv, state_port, rxReady_state]
  rfl

theorem step_occupied {v : Word} {rest : List Word} (hrxs : g.port.rxs = .fOccCheck) (hv : g.answers = v :: rest)
    (hocc : v &&& s.cfg.rxoccMask ≠ 0) :
    step (g.state .getChar p s) = .next (((g.readAll p s .rxocc [v] rest).withPort
      { g.port with rxs := .fForceStale }).state .getChar p s) := by
  rw [step_fetch hs, rxStep, state_port, hrxs]
  simp only
  rw [rxOccCheck_occupied (by rw [answer_state hv]; exact hocc), regRead_state hv, setRxs_state]
  rfl

theorem step_waiting {v : Word} {rest : List Word} (hrxs : g.port.rxs = .fOccCheck) (hv : g.answers = v :: rest)
    (hocc : v &&& s.cfg.rxoccMask = 0) (hwait : g.port.rxwait = true) :
    step (g.state .getChar p s) = .next (((g.readAll p s .rxocc [v] rest).withPort
      { g.port with rxs := .fOvrCheck }).state .getChar p s) := by
  rw [step_fetch hs, rxStep, state_port, hrxs]
  simp only
  rw [rxOccCheck_empty_waiting (by rw [answer_state hv]; exact hocc) (by rw [state_port]; exact hwait),
    regRead_state hv, setRxs_state]
  rfl

theorem step_notReady {v : Word} {rest : List Word} (hrxs : g.port.rxs = .fOccCheck) (hv : g.answers = v :: rest)
    (hocc : v &&& s.cfg.rxoccMask = 0) (hwait : g.port.rxwait = false) :
    step (g.state .getChar p s) = .next (((g.readAll p s .rxocc [v] rest).withPort
      { g.port with rxs := .idle }).final p s .errRxNotReady 0) := by
  rw [step_fetch hs, rxStep, state_port, hrxs]
  simp only
  rw [rxOccCheck_empty (by rw [answer_state hv]; exact hocc), regRead_state hv, rxNotReady, state_port,
    if_neg (by simp [hwait]), setRxs_state, respond_state]
  rfl

theorem step_forceStale (hrxs : g.port.rxs = .fForceStale) :
    step (g.state .getChar p s) = .next (((g.log [.wr (regAddr s p .cr) s.cfg.cmdForceStale]).withPort
      { g.port with rxs := .fStaleRead }).state .getChar p s) := by
  rw [step_fetch hs, rxStep, state_port, hrxs]
  simp only [rxForceStale, regWrite_state, setRxs_state]
  rfl

theorem step_staleRead {v : Word} {rest : List Word} (hrxs : g.port.rxs = .fStaleRead) (hv : g.answers = v :: rest) :
    step (g.state .getChar p s) = .next (((g.readAll p s .rf [v] rest).withPort
      { g.port with rxtmp := v, rxs := .fResetStale }).state .getChar p s) := by
  rw [step_fetch hs, rxStep, state_port, hrxs]
  simp only [rxStaleRead_eq, regRead_state hv, setPort_state, answer_state hv, state_port]

theorem step_resetStale (hrxs : g.port.rxs = .fResetStale) :
    step (g.state .getChar p s) = .next (((g.log [.wr (regAddr s p .cr) s.cfg.cmdResetStale]).withPort
      { g.port with rxs := .fRearm }).state .getChar p s) := by
  rw [step_fetch hs, rxStep, state_port, hrxs]
  simp only [rxResetStale, regWrite_state, setRxs_state]
  rfl

theorem step_rearm (hrxs : g.port.rxs = .fRearm) :
    step (g.state .getChar p s) = .next (((g.log [.wr (regAddr s p .rxwm) s.cfg.rxwmRearm]).withPort
      { g.port with rxc := g.port.rxtmp >>> 8, rxs := .idle }).final p s .success (g.port.rxtmp.toNat % 256)) := by
  rw [step_fetch hs, rxStep, state_port, hrxs]
  simp only [rxRearm, regWrite_state, rxReady_state]
  rfl

/-! ### The overrun check -/

/-- The overrun check with its clearing leads to the ready check. -/
theorem run_overrun {v : Word} {rest : List Word} (hrxs : g.port.rxs = .fOvrCheck) (hv : g.answers = v :: rest) :
    run (if v.getLsbD s.cfg.srOverrun then 2 else 1) (g.state .getChar p s) =
      .next (Progress.state .getChar p s { g with
        port := { g.port with rxs := .fRdyCheck }
        answers := rest, reads := g.reads + 1, events := g.events ++ overrunEvents p s v }) := by
  have hcheck := step_ovrCheck hs hrxs hv
  unfold overrunEvents
  split_ifs at hcheck ⊢ with hover
  · rw [run_succ_next hcheck, run_succ_next (step_ovrClear hs rfl)]
    simp [Progress.readAll, Progress.withPort, Progress.log]
  · rw [run_succ_next hcheck]
    simp [Progress.readAll, Progress.withPort]

/-- A fetch that finds nothing goes through three reads, an overrun being cleared, and a waiting request starts over
(R178). -/
theorem run_emptyFetch {f : EmptyFetch} {rest : List Word} (hrxs : g.port.rxs = .fOvrCheck)
    (hwait : g.port.rxwait = true) (hf : f.ok s.cfg = true) (hans : g.answers = f.answers ++ rest) :
    run (f.steps s.cfg) (g.state .getChar p s) =
      .next (Progress.state .getChar p s { g with
        answers := rest, reads := g.reads + 3, events := g.events ++ f.events s p }) := by
  simp only [EmptyFetch.ok, Bool.and_eq_true, Bool.not_eq_true', beq_iff_eq] at hf
  obtain ⟨hready, hocc⟩ := hf
  have hsteps : f.steps s.cfg = (if f.overrun.getLsbD s.cfg.srOverrun then 2 else 1) + 2 := by
    unfold EmptyFetch.steps
    split_ifs <;> rfl
  have hevents : f.events s p = overrunEvents p s f.overrun ++
      [.rd (regAddr s p .sr) f.ready, .rd (regAddr s p .rxocc) f.occupancy] := by
    unfold EmptyFetch.events overrunEvents
    split_ifs <;> rfl
  have hrdy := step_rdyCheck (g := { g with
    port := { g.port with rxs := .fRdyCheck }
    answers := f.ready :: f.occupancy :: rest, reads := g.reads + 1
    events := g.events ++ overrunEvents p s f.overrun }) hs rfl rfl
  rw [if_neg (Bool.eq_false_iff.1 hready)] at hrdy
  rw [hsteps, run_add (run_overrun (rest := f.ready :: f.occupancy :: rest) hs hrxs hans), run_succ_next hrdy,
    run_succ_next (step_waiting hs rfl rfl hocc (by exact hwait)), run_zero]
  simp [Progress.readAll, Progress.withPort, hevents, ← hrxs]

/-- A waiting request goes through any number of fetches that find nothing. -/
theorem run_emptyFetches (fs : List EmptyFetch) {rest : List Word} {g : Progress} (hrxs : g.port.rxs = .fOvrCheck)
    (hwait : g.port.rxwait = true) (hfs : ∀ f ∈ fs, f.ok s.cfg = true)
    (hans : g.answers = fs.flatMap EmptyFetch.answers ++ rest) :
    run (fs.map (EmptyFetch.steps s.cfg)).sum (g.state .getChar p s) =
      .next (Progress.state .getChar p s { g with
        answers := rest, reads := g.reads + 3 * fs.length
        events := g.events ++ fs.flatMap (EmptyFetch.events s p) }) := by
  induction fs generalizing g with
  | nil => simp [← show g.answers = rest from hans]
  | cons f fs ih =>
    rw [List.flatMap_cons, List.append_assoc] at hans
    rw [List.map_cons, List.sum_cons, run_add (run_emptyFetch hs hrxs hwait (hfs f List.mem_cons_self) hans),
      ih (g := { g with
        answers := fs.flatMap EmptyFetch.answers ++ rest, reads := g.reads + 3
        events := g.events ++ f.events s p }) hrxs hwait (fun f' hf' => hfs f' (List.mem_cons_of_mem f hf')) rfl]
    simp [Nat.mul_add, Nat.add_assoc, Nat.add_comm]

end Fetch

/-- Settles O43: by induction on the fetches, each ending where it began. -/
theorem waitingGetcRetriesWithoutBound : Obligations.WaitingGetcRetriesWithoutBound := by
  intro fs s p rest hprog hrxs hwait hfs hans
  have hrun := run_emptyFetches hprog.ready fs (g := Progress.start s p) hrxs hwait hfs hans
  rw [state_start hprog] at hrun
  rw [hrun, Progress.start, state_of_inProgress hprog, List.nil_append, Nat.zero_add]

/-! ### GET_CHAR from its start -/

/-- A fetch that has made its overrun check, the first read of which gave `v`. -/
def overrunChecked (s : State) (p : Port) (wait : Bool) (v : Word) (rest : List Word) : Progress :=
  { port := { s.port p with rxwait := wait, rxs := .fRdyCheck }, mem := s.mem, answers := rest, reads := 1
    events := overrunEvents p s v }

/-- GET_CHAR on an empty cache starts a fetch (R170), which makes its overrun check. -/
theorem exec_getc_overrunChecked {port : PortField} {wait : Bool} {v : Word} {rest : List Word} (hs : Ready s p)
    (hp : Registered s port p) (hempty : (s.port p).rxc = 0) (hans : s.answers = v :: rest) :
    ∃ s1, exec (.getc port wait) s = .next s1 ∧ run (if v.getLsbD s.cfg.srOverrun then 2 else 1) s1 =
      .next ((overrunChecked s p wait v rest).state .getChar p s) := by
  refine ⟨_, (exec_getc_registered hp wait).trans (if_pos hempty), ?_⟩
  have hstart : (activate .getChar port s).setPort p { s.port p with rxwait := wait, rxs := .fOvrCheck } =
      Progress.state .getChar p s { Progress.start s p with
        port := { s.port p with rxwait := wait, rxs := .fOvrCheck } } := by
    simp [Progress.state, Progress.start, activate, State.setPort, port_eq_ofNat hp]
  rw [hstart, run_overrun hs rfl hans]
  rfl

theorem Ready.of_registered {port : PortField} (hp : Registered s port p) (hr : s.refused = none)
    (hpin : s.resetPin = false) (hm : s.mode = .run) : Ready s p := ⟨hr, hpin, hm, hp.2⟩

theorem ite_two_one_add (b : Bool) (n : Nat) : (if b then 2 else 1) + n = if b then 2 + n else 1 + n := by
  split_ifs <;> rfl

/-- Settles O40: after the overrun check, the ready check and the read. -/
theorem getcFetchesAReadyWord : Obligations.GetcFetchesAReadyWord := by
  intro s port p wait v1 v2 w rest hp hr hpin hm hempty hans hready
  have hs := Ready.of_registered hp hr hpin hm
  obtain ⟨s1, hexec, hover⟩ := exec_getc_overrunChecked (wait := wait) hs hp hempty hans
  have hrdy := step_rdyCheck (g := overrunChecked s p wait v1 (v2 :: w :: rest)) hs rfl rfl
  rw [if_pos hready] at hrdy
  refine ⟨s1, hexec, ?_⟩
  rw [← ite_two_one_add _ 2, run_add hover, run_succ_next hrdy, run_succ_next (step_read hs rfl rfl), run_zero]
  simp [Progress.final, Progress.readAll, Progress.withPort, overrunChecked, overrunEvents, statusCode]

/-- Settles O41: after the overrun check and the ready check, the occupancy check and the forced-stale accesses. -/
theorem getcForcesAPartialWordOut : Obligations.GetcForcesAPartialWordOut := by
  intro s port p wait v1 v2 v3 w rest hp hr hpin hm hempty hans hready hocc
  have hs := Ready.of_registered hp hr hpin hm
  obtain ⟨s1, hexec, hover⟩ := exec_getc_overrunChecked (wait := wait) hs hp hempty hans
  have hrdy := step_rdyCheck (g := overrunChecked s p wait v1 (v2 :: v3 :: w :: rest)) hs rfl rfl
  rw [if_neg (Bool.eq_false_iff.1 hready)] at hrdy
  refine ⟨s1, hexec, ?_⟩
  rw [← ite_two_one_add _ 6, run_add hover, run_succ_next hrdy, run_succ_next (step_occupied hs rfl rfl hocc),
    run_succ_next (step_forceStale hs rfl), run_succ_next (step_staleRead hs rfl rfl),
    run_succ_next (step_resetStale hs rfl), run_succ_next (step_rearm hs rfl), run_zero]
  simp [Progress.final, Progress.readAll, Progress.withPort, Progress.log, overrunChecked, overrunEvents, statusCode]

/-- Settles O42: after the overrun check and the ready check, the occupancy check. -/
theorem getcReportsAnEmptyQueue : Obligations.GetcReportsAnEmptyQueue := by
  intro s port p v1 v2 v3 rest hp hr hpin hm hempty hans hready hocc
  have hs := Ready.of_registered hp hr hpin hm
  obtain ⟨s1, hexec, hover⟩ := exec_getc_overrunChecked (wait := false) hs hp hempty hans
  have hrdy := step_rdyCheck (g := overrunChecked s p false v1 (v2 :: v3 :: rest)) hs rfl rfl
  rw [if_neg (Bool.eq_false_iff.1 hready)] at hrdy
  refine ⟨s1, hexec, ?_⟩
  rw [← ite_two_one_add _ 2, run_add hover, run_succ_next hrdy, run_succ_next (step_notReady hs rfl rfl hocc rfl),
    run_zero]
  simp [Progress.final, Progress.readAll, Progress.withPort, overrunChecked, overrunEvents, statusCode]

end Sys2Proof.Machine
end

section
/-! 42_transmit.md R155: PUT_CHAR from its start to its response, with a device that is ready. -/

namespace Sys2Proof.Machine

variable {p : Port} {s : State} {g : Progress} {byte : Byte}

/-! ### The one word of a PUT_CHAR -/

/-- The number of physical characters of a byte. -/
def putcCount (byte : Byte) : Nat := if byte = lf then 2 else 1

/-- The FIFO word of a byte: a newline with its carriage return before it, a `SENTINEL` as a newline. -/
def putcWord (byte : Byte) : Word :=
  if byte = lf then 0x00000A0D else if byte = sentinel then 0x0000000A else byte.setWidth 32

theorem lanePut_zero (b : Byte) : lanePut 0 0 b = b.setWidth 32 := by
  simp [lanePut]

/-- A slot of the staging byte emits its carriage return or the byte. -/
theorem slotStep_stage (hsrc : (s.port p).txsrc = .stage) (cur : Nat) :
    slotStep p cur s =
      if (s.port p).txstg = lf then
        { out := crByte, cur, after := s.setPort p { s.port p with txstg := sentinel } }
      else if (s.port p).txstg = sentinel then { out := lf, cur := cur + 1, after := s }
      else { out := (s.port p).txstg, cur := cur + 1, after := s } := by
  simp only [slotStep, srcByte, srcRead, srcWrite, hsrc]

/-- Packing the staging byte fills the one word of a PUT_CHAR, and a newline is marked in the staging byte. -/
theorem packFrom_stage (hsrc : (s.port p).txsrc = .stage) :
    packFrom p (putcCount (s.port p).txstg) 0 0 0 s =
      { word := putcWord (s.port p).txstg, cur := 1
        after := s.setPort p { s.port p with
          txstg := if (s.port p).txstg = lf then sentinel else (s.port p).txstg } } := by
  have hsame : s.setPort p (s.port p) = s := setPort_port_eq s p
  by_cases hlf : (s.port p).txstg = lf
  · have hnext := slotStep_stage (p := p) (s := s.setPort p { s.port p with txstg := sentinel })
      (by rw [setPort_port_self]; exact hsrc) 0
    simp only [setPort_port_self, if_neg (show sentinel ≠ lf by decide), if_true] at hnext
    simp only [putcCount, putcWord, if_pos hlf, packFrom, slotStep_stage hsrc, hnext]
    rfl
  · by_cases hsent : (s.port p).txstg = sentinel
    · simp only [putcCount, putcWord, if_neg hlf, if_pos hsent, packFrom, slotStep_stage hsrc, hsame]
      rfl
    · simp only [putcCount, putcWord, if_neg hlf, if_neg hsent, packFrom, slotStep_stage hsrc, hsame, lanePut_zero]

theorem nslots_putcCount (byte : Byte) : nslots (putcCount byte) 0 = putcCount byte := by
  unfold putcCount
  split_ifs <;> rfl

theorem txPack_stage (hsrc : g.port.txsrc = .stage) (hcur : g.port.txcur = 0) (hi : g.port.txi = 0)
    (hc : g.port.txc = putcCount g.port.txstg) :
    txPack p (g.state .putChar p s) = (g.withPort { g.port with
      txstg := if g.port.txstg = lf then sentinel else g.port.txstg
      txword := putcWord g.port.txstg, txcur := 1, txsub := .pollTxrdy }).state .putChar p s := by
  have hpack := packFrom_stage (p := p) (s := g.state .putChar p s) (by rw [state_port]; exact hsrc)
  rw [state_port] at hpack
  rw [txPack_eq, packed, state_port, hcur, hi, hc, nslots_putcCount, packWord, hpack]
  simp only [setPort_state, state_port, withPort_withPort, withPort_port]

theorem txRestore_stage (hsrc : g.port.txsrc = .stage) (hlen : g.port.txlen = 1) :
    txRestore p (g.state .putChar p s) = (g.withPort { g.port with
      txs := .idle, txsub := .none, txstg := restored g.port.txstg }).final p s .success 0 := by
  have hpass := restorePass_stage (p := p) (s := g.state .putChar p s) (by rw [state_port]; exact hsrc)
    (by simp only [SrcFits, state_port, hsrc, hlen])
  rw [txRestore_eq (m := g.mem) (es := []) (b := restored g.port.txstg)
    (by rw [hpass, List.append_nil, state_port]; rfl)]
  simp [Progress.final, Progress.state, Progress.withPort, State.port, statusCode]

/-! ### The run -/

/-- A PUT_CHAR that has started. -/
def putcStart (s : State) (p : Port) (byte : Byte) : Progress :=
  { Progress.start s p with
    port := { s.port p with
      txsrc := .stage, txstg := byte, txlen := 1, txc := putcCount byte, txw := 1
      txi := 0, txcur := 0, txword := 0, txs := .waitFifoEmpty, txsub := .checkEmpty } }

theorem exec_putc_start {port : PortField} (hp : Registered s port p) (hfits : putcCount byte ≤ 2 ^ s.cfg.ncharW - 1) :
    exec (.putc port byte) s = .next ((putcStart s p byte).state .putChar p s) := by
  rw [putcStartsItsTransmit s port p byte hp hfits, port_eq_ofNat hp]
  simp [Progress.state, putcStart, Progress.start, putcCount]

theorem ofNat_putcCount (byte : Byte) : BitVec.ofNat 32 (putcCount byte) = if byte = lf then 2 else 1 := by
  unfold putcCount
  split_ifs <;> rfl

/-- The six steps of a PUT_CHAR whose device is ready at once. -/
theorem run_putc (hs : Ready s p) {v1 v2 : Word} {rest : List Word} (hans : s.answers = v1 :: v2 :: rest)
    (hempty : v1.getLsbD s.cfg.srTxemt = true) (hready : v2.getLsbD s.cfg.srTxrdy = true) :
    run 6 ((putcStart s p byte).state .putChar p s) = .next (Progress.final p s .success 0 {
      port := { (putcStart s p byte).port with
        txs := .idle, txsub := .none, txi := 1, txcur := 1, txword := putcWord byte
        txstg := restored (if byte = lf then sentinel else byte) }
      mem := s.mem, answers := rest, reads := 2
      events := .rd (regAddr s p .sr) v1 :: criticalEvents p s (putcCount byte) ++
        [.rd (regAddr s p .sr) v2, .wr (regAddr s p .tf) (putcWord byte), .critExit p] }) := by
  have hop : Op.putChar = .putChar ∨ Op.putChar = .write := .inl rfl
  rw [run_succ_next (step_checkEmpty_seen (g := putcStart s p byte) hs hop rfl rfl hans hempty),
    run_succ_next (step_criticalWrite hs hop rfl rfl), run_succ_next (step_pack hs hop rfl rfl),
    txPack_stage rfl rfl rfl rfl, run_succ_next (step_pollTxrdy_seen hs hop rfl rfl rfl hready),
    run_succ_next (step_push hs hop rfl rfl), run_succ_next (step_restore hs hop rfl rfl), txRestore_stage rfl rfl,
    run_zero]
  rfl

/-- Settles O31: one step per sub-state, the one word being the last. -/
theorem putcRunsToItsResponse : Obligations.PutcRunsToItsResponse := by
  intro s port p byte v1 v2 rest hp hr hpin hm hfits hans hempty hready
  have hs := Ready.of_registered hp hr hpin hm
  refine ⟨_, _, exec_putc_start hp hfits, run_putc hs hans hempty hready, ?_, rfl, rfl, rfl, rfl, rfl, rfl, rfl, hm, hr,
    ?_, ?_, ?_, fun r hne => final_port_ne hne⟩
  · rw [← ofNat_putcCount]
    rfl
  all_goals rw [final_port]
  rfl

end Sys2Proof.Machine
end

section
/-! The polls of a transmit, what its events are seen to do, and the bytes it marks (41_packing.md R128; 42_transmit.md
R144, R147, R151). -/

namespace Sys2Proof.Machine

variable {op : Op} {p : Port} {s : State} {g : Progress}

/-! ### Polls that end -/

theorem pollWaits_of_ok {k : Nat} {q : Poll} (h : q.ok k = true) : ∀ v ∈ q.waits, v.getLsbD k = false := by
  simp only [Poll.ok, Bool.and_eq_true, List.all_eq_true, Bool.not_eq_true'] at h
  exact h.1

theorem pollLast_of_ok {k : Nat} {q : Poll} (h : q.ok k = true) : q.last.getLsbD k = true := by
  simp only [Poll.ok, Bool.and_eq_true] at h
  exact h.2

/-- The events of finding the FIFO empty. -/
def emptyCheckEvents (p : Port) (s : State) (e : EmptyCheck) : List Event :=
  .rd (regAddr s p .sr) e.status :: (match e.latch with
    | none => []
    | some q => q.answers).map (.rd (regAddr s p .isr))

section Polls

variable (hs : Ready s p) (hop : op = .putChar ∨ op = .write)

include hs hop

/-- A poll of `SR_TXRDY` that ends leads to the push. -/
theorem run_pollTxrdy_seen {q : Poll} {rest : List Word} (htxs : g.port.txs = .packAndDrain)
    (hsub : g.port.txsub = .pollTxrdy) (hq : q.ok s.cfg.srTxrdy = true) (hans : g.answers = q.answers ++ rest) :
    run q.answers.length (g.state op p s) =
      .next (((g.readAll p s .sr q.answers rest).withPort { g.port with txsub := .push }).state op p s) := by
  have hwaits := run_pollTxrdy (rest := q.last :: rest) hs hop q.waits htxs hsub (pollWaits_of_ok hq)
    (by rw [hans, Poll.answers, List.append_assoc]; rfl)
  rw [Poll.answers, List.length_append, run_add hwaits, List.length_singleton,
    run_succ_next (step_pollTxrdy_seen hs hop (by exact htxs) (by exact hsub) rfl (pollLast_of_ok hq)), run_zero]
  simp [Progress.readAll, Nat.add_assoc]

/-- A poll of the TX-ready latch that ends leads to the critical section. -/
theorem run_pollTxready_seen {q : Poll} {rest : List Word} (htxs : g.port.txs = .waitFifoEmpty)
    (hsub : g.port.txsub = .pollTxready) (hq : q.ok s.cfg.isrTxready = true) (hans : g.answers = q.answers ++ rest) :
    run q.answers.length (g.state op p s) = .next (((g.readAll p s .isr q.answers rest).withPort
      { g.port with txs := .criticalWrite, txsub := .none }).state op p s) := by
  have hwaits := run_pollTxready (rest := q.last :: rest) hs hop q.waits htxs hsub (pollWaits_of_ok hq)
    (by rw [hans, Poll.answers, List.append_assoc]; rfl)
  rw [Poll.answers, List.length_append, run_add hwaits, List.length_singleton,
    run_succ_next (step_pollTxready_seen hs hop (by exact htxs) (by exact hsub) rfl (pollLast_of_ok hq)), run_zero]
  simp [Progress.readAll, Nat.add_assoc]

/-- A transmit finds the FIFO empty at once or after a poll of the latch (R144). -/
theorem run_emptyCheck {e : EmptyCheck} {rest : List Word} (htxs : g.port.txs = .waitFifoEmpty)
    (hsub : g.port.txsub = .checkEmpty) (he : e.ok s.cfg = true) (hans : g.answers = e.answers ++ rest) :
    run e.answers.length (g.state op p s) = .next (Progress.state op p s { g with
      port := { g.port with txs := .criticalWrite, txsub := .none }
      answers := rest, reads := g.reads + e.answers.length, events := g.events ++ emptyCheckEvents p s e }) := by
  obtain ⟨status, _ | q⟩ := e
  · rw [show (EmptyCheck.mk status none).answers.length = 0 + 1 from rfl,
      run_succ_next (step_checkEmpty_seen hs hop htxs hsub hans he), run_zero]
    simp [Progress.readAll, Progress.withPort, emptyCheckEvents]
  · simp only [EmptyCheck.ok, Bool.and_eq_true, Bool.not_eq_true'] at he
    obtain ⟨hclear, hq⟩ := he
    have hcheck := step_checkEmpty (rest := q.answers ++ rest) hs hop htxs hsub hans
    rw [if_neg (Bool.eq_false_iff.1 hclear)] at hcheck
    rw [show (EmptyCheck.mk status (some q)).answers.length = q.answers.length + 1 from rfl, run_succ_next hcheck,
      run_pollTxready_seen hs hop (by exact htxs) rfl hq rfl]
    simp [Progress.readAll, Progress.withPort, emptyCheckEvents, Nat.add_assoc, Nat.add_comm]

end Polls

/-! ### What is seen of events -/

/-- The value of a register read. -/
def Event.readValue : Event → Option Word
  | .rd _ v => some v
  | _ => none

/-- The event writes the count register of port `p`. -/
def Event.setsCount (s : State) (p : Port) : Event → Bool
  | .wr a _ => a == regAddr s p .nchar
  | _ => false

/-- The events `es` write the words `ws` to the FIFO of port `p`, make the writes `cs` of its count register, and read
the values `vs`. -/
structure Observed (p : Port) (s : State) (es : List Event) (ws : List Word) (cs : List Event)
    (vs : List Word) : Prop where
  words : fifoWords s p es = ws
  counts : es.filter (Event.setsCount s p) = cs
  reads : es.filterMap Event.readValue = vs

theorem Observed.nil : Observed p s [] [] [] [] := ⟨rfl, rfl, rfl⟩

theorem Observed.append {es es' : List Event} {ws ws' : List Word} {cs cs' : List Event} {vs vs' : List Word}
    (h : Observed p s es ws cs vs) (h' : Observed p s es' ws' cs' vs') :
    Observed p s (es ++ es') (ws ++ ws') (cs ++ cs') (vs ++ vs') := by
  refine ⟨?_, ?_, ?_⟩
  · rw [fifoWords, List.filterMap_append, ← h.words, ← h'.words]
    rfl
  · rw [List.filter_append, h.counts, h'.counts]
  · rw [List.filterMap_append, h.reads, h'.reads]

theorem observed_mem {es : List Event} (h : ∀ e ∈ es, e.isMem = true) : Observed p s es [] [] [] := by
  refine ⟨List.filterMap_eq_nil_iff.2 fun e he => ?_, List.filter_eq_nil_iff.2 fun e he => ?_,
    List.filterMap_eq_nil_iff.2 fun e he => ?_⟩
  all_goals
    have hmem := h e he
    cases e <;> simp [Event.isMem, Event.setsCount, Event.readValue] at hmem ⊢

theorem observed_reads (a : Nat) (vs : List Word) : Observed p s (vs.map (.rd a)) [] [] vs := by
  induction vs with
  | nil => exact .nil
  | cons v vs ih => exact Observed.append (es := [.rd a v]) (vs := [v]) ⟨rfl, rfl, rfl⟩ ih

theorem observed_emptyCheck (e : EmptyCheck) : Observed p s (emptyCheckEvents p s e) [] [] e.answers := by
  obtain ⟨status, _ | q⟩ := e
  · exact observed_reads _ [status]
  · exact Observed.append (observed_reads _ [status]) (observed_reads _ q.answers)

theorem observed_critical (hwf : s.cfg.wf = true) (c : Nat) :
    Observed p s (criticalEvents p s c) [] [.wr (regAddr s p .nchar) (BitVec.ofNat 32 c)] [] := by
  constructor <;> simp [criticalEvents, fifoWords, Event.setsCount, Event.readValue, regAddr_inj hwf]

theorem observed_push (hwf : s.cfg.wf = true) (q : PortState) : Observed p s (pushEvents p s q) [q.txword] [] [] := by
  unfold pushEvents
  split_ifs <;> constructor <;> simp [fifoWords, Event.setsCount, Event.readValue, regAddr_inj hwf]

theorem observed_rsp (st : BitVec 8) (d : Nat) : Observed p s [.rsp st d] [] [] [] := ⟨rfl, rfl, rfl⟩

/-! ### The lanes that words drain from a stream -/

/-- The bytes `L`, cut to the length of the stream `a`, are what is drained of it when `b` is left. -/
def Drains (L a b : List Byte) : Prop := L.take a.length ++ b = a

theorem Drains.refl (a : List Byte) : Drains [] a a := by
  rw [Drains, List.take_nil, List.nil_append]

theorem Drains.trans {L L' a b c : List Byte} (h : Drains L a b) (h' : Drains L' b c) : Drains (L ++ L') a c := by
  have hlen : b.length = a.length - L.length := by
    have hsum := congrArg List.length h
    rw [List.length_append, List.length_take] at hsum
    omega
  rw [Drains, List.take_append, List.append_assoc, ← hlen, show _ ++ c = b from h', show _ ++ b = a from h]

/-- A word filled with the next bytes of a stream drains them (R126, R128). -/
theorem drains_fillLanes (a : List Byte) : Drains (lanes (fillLanes 0 0 (a.take 4))) a (a.drop 4) := by
  have htake : (lanes (fillLanes 0 0 (a.take 4))).take a.length = a.take 4 := by
    simp only [lanes, laneGet_fillLanes_zero _ (show 0 < 4 by decide), laneGet_fillLanes_zero _ (show 1 < 4 by decide),
      laneGet_fillLanes_zero _ (show 2 < 4 by decide), laneGet_fillLanes_zero _ (show 3 < 4 by decide)]
    obtain _ | ⟨_, _ | ⟨_, _ | ⟨_, _ | ⟨_, _⟩⟩⟩⟩ := a <;> simp
  rw [Drains, htake, List.take_append_drop]

/-! ### The bytes that packing marks -/

/-- From `m` to `m'` only newlines in the `n` bytes from `buf` on change, to `SENTINEL`. -/
def Marked (buf n : Nat) (m m' : Memory) : Prop :=
  ∀ a, m'.read a = m.read a ∨ (buf ≤ a ∧ a < buf + n) ∧ m.read a = lf ∧ m'.read a = sentinel

theorem Marked.refl (buf n : Nat) (m : Memory) : Marked buf n m m := fun _ => .inl rfl

theorem lf_ne_sentinel : lf ≠ sentinel := by decide

theorem Marked.trans {buf n : Nat} {m m' m'' : Memory} (h : Marked buf n m m') (h' : Marked buf n m' m'') :
    Marked buf n m m'' := by
  intro a
  obtain hsame | ⟨hin, hlf, hsent⟩ := h' a
  · rw [hsame]
    exact h a
  · obtain hsame | ⟨-, -, hsent'⟩ := h a
    · exact .inr ⟨hin, hsame ▸ hlf, hsent⟩
    · exact absurd (hlf.symm.trans hsent') lf_ne_sentinel

/-- Restoring after marking gives back every byte but a `SENTINEL` of the buffer, which ends as a newline (R130). -/
theorem Marked.restored {buf n : Nat} {m m' : Memory} (h : Marked buf n m m') (a : Nat) :
    (if buf ≤ a ∧ a < buf + n ∧ m'.read a = sentinel then lf else m'.read a) =
      if buf ≤ a ∧ a < buf + n ∧ m.read a = sentinel then lf else m.read a := by
  obtain hsame | ⟨⟨hle, hlt⟩, hlf, hsent⟩ := h a
  · rw [hsame]
  · rw [if_pos ⟨hle, hlt, hsent⟩, hlf, if_neg fun hbyte => lf_ne_sentinel hbyte.2.2]

/-- `PACK` of a WRITE marks newlines of its buffer only (R131). -/
theorem marked_txPack (hm : s.mem.wf = true) (hinv : TxInv s p) (hbusy : (s.port p).txs ≠ .idle)
    (hsub : (s.port p).txsub = .pack) (hsrc : (s.port p).txsrc = .mem) :
    Marked (s.port p).txbuf (s.port p).txlen s.mem (txPack p s).mem := by
  have hspec := txPack_spec hm hinv hbusy hsub
  have hsame := sameSource_txPack p s
  obtain ⟨-, -, -, -, -, -, -, hmem, -⟩ := hinv.bounds hbusy
  intro a
  refine or_iff_not_imp_left.2 fun hne => ?_
  obtain ⟨-, k, hk, rfl⟩ := inside_of_read_ne (hspec.outside a) hne
  have hbyte := hspec.bytes k hk
  rw [srcByte_of_mem hsrc, srcByte_of_mem (hsame.txsrc.trans (hspec.source.txsrc.trans hsrc)), hsame.srcAddr,
    hspec.source.srcAddr] at hbyte
  have haddr : srcAddr s p k = (s.port p).txbuf + k := busAddr_of_lt s (by have := (hmem hsrc).2; omega)
  exact ⟨by omega, hbyte.resolve_left hne⟩

end Sys2Proof.Machine
end

section
/-! 41_packing.md R128, R130; 42_transmit.md R151, R152: a WRITE from its start to its response, through any polls that
end. -/

namespace Sys2Proof.Machine

variable {p : Port} {s : State} {g : Progress}

/-! ### Between two words -/

/-- A WRITE between two words of its drain, or before its restore pass. -/
structure AtWord (p : Port) (s : State) (g : Progress) : Prop where
  mem : g.mem.wf = true
  inv : TxInv (g.state .write p s) p
  txs : g.port.txs = .packAndDrain
  txsub : g.port.txsub = if g.port.txi < g.port.txw then .pack else .restore
  txsrc : g.port.txsrc = .mem

/-- From `g` to `g'` a WRITE sent the words `ws` and took the answers `vs`. -/
structure Sent (p : Port) (s : State) (ws vs : List Word) (g g' : Progress) : Prop where
  atWord : AtWord p s g'
  port : g'.port = { g.port with
    txsub := g'.port.txsub, txi := g.port.txi + ws.length, txcur := g'.port.txcur, txword := g'.port.txword
    txstg := g'.port.txstg }
  answers : g.answers = vs ++ g'.answers
  events : ∃ es, g'.events = g.events ++ es ∧ Observed p s es ws [] vs
  drains : Drains (ws.flatMap lanes) (toCome (g.state .write p s) p) (toCome (g'.state .write p s) p)
  marked : Marked g.port.txbuf g.port.txlen g.mem g'.mem

theorem Sent.refl (h : AtWord p s g) : Sent p s [] [] g g :=
  ⟨h, rfl, rfl, ⟨[], (List.append_nil _).symm, .nil⟩, Drains.refl _, Marked.refl _ _ _⟩

theorem Sent.trans {ws ws' vs vs' : List Word} {g' g'' : Progress} (h : Sent p s ws vs g g')
    (h' : Sent p s ws' vs' g' g'') : Sent p s (ws ++ ws') (vs ++ vs') g g'' := by
  obtain ⟨es, hes, hobs⟩ := h.events
  obtain ⟨es', hes', hobs'⟩ := h'.events
  refine ⟨h'.atWord, ?_, ?_, ⟨es ++ es', ?_, hobs.append hobs'⟩, ?_, h.marked.trans ?_⟩
  · rw [h'.port, h.port, List.length_append, Nat.add_assoc]
  · rw [h.answers, h'.answers, List.append_assoc]
  · rw [hes', hes, List.append_assoc]
  · rw [List.flatMap_append]
    exact h.drains.trans h'.drains
  · have hmarked := h'.marked
    rw [h.port] at hmarked
    exact hmarked

/-- The stream still to come is one of the source registers and client memory. -/
theorem toCome_state_congr {g' : Progress} (hmem : g'.mem = g.mem) {txs : TxState} {sub : TxSub} {i : Nat}
    (hport : g'.port = { g.port with txs := txs, txsub := sub, txi := i }) :
    toCome (g'.state .write p s) p = toCome (g.state .write p s) p := by
  have hsame : SameSource p (g.state .write p s) (g'.state .write p s) :=
    ⟨rfl, hmem, by simp [hport], by simp [hport], by simp [hport]⟩
  exact hsame.toCome (by simp [hport]) (by simp [hport])

/-- A step of a transmit on its way that changes of it only `TXS` and `TXSUB` keeps the ledger. -/
theorem txInv_state_of_same {g' : Progress} (h : TxInv (g.state .write p s) p) (hbusy : g.port.txs ≠ .idle)
    (hmem : g'.mem = g.mem) {txs : TxState} {sub : TxSub} (hport : g'.port = { g.port with txs := txs, txsub := sub })
    (hs : g.port.txsub ≠ .restore) (ht : sub ≠ .restore)
    (hhand : inHand { g.port with txs := txs, txsub := sub } = inHand g.port) : TxInv (g'.state .write p s) p := by
  refine h.of_same_transmit (s := g.state .write p s) (t := g'.state .write p s) (txs := txs) (sub := sub)
    ?_ rfl hmem ?_ ?_ ht ?_ <;> rw [state_port]
  · exact hbusy
  · rw [state_port, hport]
  · exact hs
  · exact hhand

theorem txPack_state (p : Port) (s : State) (g : Progress) :
    ∃ m es b w cur, (∀ e ∈ es, e.isMem = true) ∧ txPack p (g.state .write p s) = Progress.state .write p s { g with
      mem := m, events := g.events ++ es
      port := { g.port with txstg := b, txword := w, txcur := cur, txsub := .pollTxrdy } } := by
  obtain ⟨es, htrace, hmem, -⟩ := passEvents_packFrom p (nslots ((g.state .write p s).port p).txc
    ((g.state .write p s).port p).txi) 0 0 ((g.state .write p s).port p).txcur (g.state .write p s)
  obtain ⟨m, es', b, w, cur, hpack⟩ := txPack_shape p (g.state .write p s)
  obtain rfl : es' = es := by
    have htrace' := congrArg State.trace hpack
    exact List.append_cancel_left (htrace'.symm.trans htrace)
  refine ⟨m, es', b, w, cur, hmem, ?_⟩
  rw [hpack, state_port]
  simp [Progress.state, List.append_assoc]

/-- What `PACK` does of a WRITE on its way: the word holds the next bytes of the stream. -/
structure PackedTo (p : Port) (s : State) (g g' : Progress) : Prop where
  mem : g'.mem.wf = true
  inv : TxInv (g'.state .write p s) p
  port : g'.port = { g.port with
    txword := fillLanes 0 0 ((toCome (g.state .write p s) p).take 4), txsub := .pollTxrdy
    txcur := g'.port.txcur, txstg := g'.port.txstg }
  answers : g'.answers = g.answers
  events : ∃ es, g'.events = g.events ++ es ∧ ∀ e ∈ es, e.isMem = true
  toCome : toCome (g'.state .write p s) p = (toCome (g.state .write p s) p).drop 4
  marked : Marked g.port.txbuf g.port.txlen g.mem g'.mem

theorem txPack_packedTo (hg : AtWord p s g) (hmore : g.port.txi < g.port.txw) :
    ∃ g', txPack p (g.state .write p s) = g'.state .write p s ∧ PackedTo p s g g' := by
  have hport : (g.state .write p s).port p = g.port := state_port
  have hsub : ((g.state .write p s).port p).txsub = .pack := by rw [hport, hg.txsub, if_pos hmore]
  have hbusy : ((g.state .write p s).port p).txs ≠ .idle := by simp [hg.txs]
  have hspec := txPack_spec (s := g.state .write p s) hg.mem hg.inv hbusy hsub
  have hmarked := marked_txPack (s := g.state .write p s) hg.mem hg.inv hbusy hsub (by rw [hport, hg.txsrc])
  have hinv := txPack_txInv (s := g.state .write p s) hg.mem hg.inv hbusy hsub
  have hmem : (txPack p (g.state .write p s)).mem.wf = true := hspec.source.memWf hg.mem
  obtain ⟨-, hledger⟩ := hg.inv.ledger hbusy (by rw [hsub]; decide)
  rw [inHand, if_neg (by rw [hsub]; decide), hport] at hledger
  have hslots : nslots g.port.txc g.port.txi = min 4 (toCome (g.state .write p s) p).length := by
    rw [nslots_eq]
    omega
  have hword := hspec.word
  have hcome := hspec.toCome
  rw [hport, hslots, ← List.take_eq_take_min] at hword
  rw [hport, hslots, ← List.drop_eq_drop_min] at hcome
  obtain ⟨m, es, b, w, cur, hes, hpack⟩ := txPack_state p s g
  rw [hpack] at hword hcome hmarked hinv hmem
  rw [state_port] at hword
  refine ⟨_, hpack, hmem, hinv, ?_, rfl, ⟨es, rfl, hes⟩, hcome, ?_⟩
  · rw [← hword]
  · rw [hport] at hmarked
    exact hmarked

/-- After a poll of `SR_TXRDY` that ended. -/
def polled (p : Port) (s : State) (q : Poll) (rest : List Word) (g : Progress) : Progress :=
  (g.readAll p s .sr q.answers rest).withPort { g.port with txsub := .push }

/-- One word: it is packed, its poll ends, and it is pushed (R146 to R149). -/
theorem run_word (hs : Ready s p) (hwf : s.cfg.wf = true) (hg : AtWord p s g) (hmore : g.port.txi < g.port.txw)
    {q : Poll} (hq : q.ok s.cfg.srTxrdy = true) {rest : List Word} (hans : g.answers = q.answers ++ rest) :
    ∃ g' w, run (q.answers.length + 2) (g.state .write p s) = .next (g'.state .write p s) ∧
      Sent p s [w] q.answers g g' := by
  have hop : Op.write = .putChar ∨ Op.write = .write := .inr rfl
  obtain ⟨g1, hpack, h1⟩ := txPack_packedTo hg hmore
  obtain ⟨es, hes, hmem⟩ := h1.events
  have htxs : g1.port.txs = .packAndDrain := by rw [h1.port]; exact hg.txs
  have hsub : g1.port.txsub = .pollTxrdy := by rw [h1.port]
  have hpoll : run q.answers.length (g1.state .write p s) = .next ((polled p s q rest g1).state .write p s) :=
    run_pollTxrdy_seen hs hop htxs hsub hq (h1.answers.trans hans)
  have hinv : TxInv ((polled p s q rest g1).pushed p s |>.state .write p s) p := by
    rw [← txPush_state]
    exact txPush_txInv (txInv_state_of_same h1.inv (by simp [htxs]) rfl rfl (by simp [hsub]) (by simp)
      (by simp [inHand, hsub])) (by rw [state_port]; simp [polled, htxs]) (by rw [state_port]; rfl)
  refine ⟨(polled p s q rest g1).pushed p s, g1.port.txword, ?run,
    ⟨h1.mem, hinv, htxs, rfl, ?src⟩, ?port, hans, ⟨es ++ (q.answers.map (.rd (regAddr s p .sr)) ++
      pushEvents p s (polled p s q rest g1).port), ?events, ?observed⟩, ?drains, h1.marked⟩
  case run =>
    rw [run_succ_next ((step_pack hs hop hg.txs (by rw [hg.txsub, if_pos hmore])).trans (congrArg _ hpack)),
      run_add hpoll, run_succ_next (step_push (g := polled p s q rest g1) hs hop htxs rfl), run_zero]
  case src =>
    rw [Progress.pushed, polled, withPort_port, withPort_port, h1.port]
    exact hg.txsrc
  case port =>
    rw [Progress.pushed, polled, withPort_port, withPort_port, h1.port]
    rfl
  case events =>
    simp [Progress.pushed, polled, Progress.log, Progress.withPort, Progress.readAll, hes]
  case observed =>
    have hpush : Observed p s (pushEvents p s (polled p s q rest g1).port) [g1.port.txword] [] [] := observed_push hwf _
    simpa using (observed_mem hmem).append ((observed_reads _ q.answers).append hpush)
  case drains =>
    have hcome : toCome ((polled p s q rest g1).pushed p s |>.state .write p s) p = toCome (g1.state .write p s) p :=
      toCome_state_congr rfl rfl
    rw [List.flatMap_singleton, hcome, h1.toCome, h1.port]
    exact drains_fillLanes _

/-- The words of a WRITE, each through its poll. -/
theorem run_words (hs : Ready s p) (hwf : s.cfg.wf = true) (qs : List Poll) {rest : List Word} (hg : AtWord p s g)
    (hw : g.port.txi + qs.length = g.port.txw) (hqs : ∀ q ∈ qs, q.ok s.cfg.srTxrdy = true)
    (hans : g.answers = qs.flatMap Poll.answers ++ rest) :
    ∃ g' ws, run ((qs.flatMap Poll.answers).length + 2 * qs.length) (g.state .write p s) =
        .next (g'.state .write p s) ∧
      Sent p s ws (qs.flatMap Poll.answers) g g' ∧ ws.length = qs.length := by
  induction qs generalizing g with
  | nil => exact ⟨g, [], rfl, .refl hg, rfl⟩
  | cons q qs ih =>
    rw [List.length_cons] at hw
    rw [List.flatMap_cons, List.append_assoc] at hans
    obtain ⟨g1, w, hrun, h1⟩ := run_word hs hwf hg (by omega) (hqs q List.mem_cons_self) hans
    have hport := h1.port
    obtain ⟨g', ws, hrun', h', hlen⟩ := ih h1.atWord (by rw [hport]; simp only [List.length_singleton]; omega)
      (fun q' hq' => hqs q' (List.mem_cons_of_mem q hq')) (List.append_cancel_left (h1.answers.symm.trans hans))
    refine ⟨g', w :: ws, ?_, h1.trans h', by rw [List.length_cons, List.length_cons, hlen]⟩
    rw [List.flatMap_cons, List.length_append, List.length_cons, show q.answers.length +
      (qs.flatMap Poll.answers).length + 2 * (qs.length + 1) =
      q.answers.length + 2 + ((qs.flatMap Poll.answers).length + 2 * qs.length) by omega, run_add hrun, hrun']

/-! ### The restore pass and the response -/

/-- The restore pass of a WRITE ends it: every `SENTINEL` of the buffer is a newline again (R127, R150). -/
theorem txRestore_final (hm : g.mem.wf = true) (hinv : TxInv (g.state .write p s) p) (hbusy : g.port.txs ≠ .idle)
    (hsrc : g.port.txsrc = .mem) :
    ∃ m es, txRestore p (g.state .write p s) = Progress.final p s .success 0 { g with
        port := { g.port with txs := .idle, txsub := .none }, mem := m, events := g.events ++ es } ∧
      (∀ e ∈ es, e.isMem = true) ∧ ∀ a, m.read a =
        if g.port.txbuf ≤ a ∧ a < g.port.txbuf + g.port.txlen ∧ g.mem.read a = sentinel then lf else g.mem.read a := by
  have hport : (g.state .write p s).port p = g.port := state_port
  obtain ⟨m, hpass, hread⟩ := restorePass_mem (s := g.state .write p s) hm
    (hinv.bounds (by rw [hport]; exact hbusy)).srcFits (by rw [hport]; exact hsrc)
  obtain ⟨es, htrace, hes, -⟩ := passEvents_restoreFrom p ((g.state .write p s).port p).txlen 0 (g.state .write p s)
  rw [hport] at hread
  have htrace' := congrArg State.trace hpass
  have hevents := List.append_cancel_left (htrace'.symm.trans htrace)
  refine ⟨m, es, ?_, hes, hread⟩
  rw [txRestore_eq (m := m) (es := es) (b := ((g.state .write p s).port p).txstg)
    (by rw [hpass, hevents]; exact (setPort_port_eq _ p).symm), hport]
  simp [Progress.final, Progress.state, statusCode]

/-- After the last word nothing is to come (R129). -/
theorem toCome_eq_nil (hg : AtWord p s g) (hend : g.port.txi = g.port.txw) : toCome (g.state .write p s) p = [] := by
  have hport : (g.state .write p s).port p = g.port := state_port
  obtain ⟨-, hrestore, -⟩ := hg.inv (by rw [hport, hg.txs]; decide)
  obtain ⟨-, hcur⟩ := hrestore (by rw [hport, hg.txsub, if_neg (by omega)])
  rw [toCome, hcur, Nat.sub_self]
  rfl

/-! ### From the start to the first word -/

/-- After a transmit has found the FIFO empty and entered the critical section. -/
def entered (p : Port) (s : State) (e : EmptyCheck) (rest : List Word) (g : Progress) : Progress :=
  { g with
    port := { g.port with txs := .packAndDrain, txsub := .pack }
    answers := rest, reads := g.reads + e.answers.length
    events := g.events ++ emptyCheckEvents p s e ++ criticalEvents p s g.port.txc }

theorem run_entered (hs : Ready s p) {e : EmptyCheck} {rest : List Word} (htxs : g.port.txs = .waitFifoEmpty)
    (hsub : g.port.txsub = .checkEmpty) (he : e.ok s.cfg = true) (hans : g.answers = e.answers ++ rest) :
    run (e.answers.length + 1) (g.state .write p s) = .next ((entered p s e rest g).state .write p s) := by
  have hop : Op.write = .putChar ∨ Op.write = .write := .inr rfl
  rw [run_add (run_emptyCheck hs hop htxs hsub he hans), run_succ_next (step_criticalWrite hs hop rfl rfl), run_zero]
  rfl

theorem atWord_entered (hm : g.mem.wf = true) (hinv : TxInv (g.state .write p s) p) (htxs : g.port.txs = .waitFifoEmpty)
    (hsub : g.port.txsub = .checkEmpty) (hsrc : g.port.txsrc = .mem) (e : EmptyCheck) (rest : List Word) :
    AtWord p s (entered p s e rest g) := by
  have hport : (g.state .write p s).port p = g.port := state_port
  obtain ⟨hmore, -⟩ := hinv.ledger (by rw [hport, htxs]; decide) (by rw [hport, hsub]; decide)
  rw [hport] at hmore
  refine ⟨hm, txInv_state_of_same hinv (by rw [htxs]; decide) rfl rfl (by rw [hsub]; decide) (by decide) ?_, rfl,
    (if_pos hmore).symm, hsrc⟩
  simp [inHand, hsub]

/-! ### The start of a WRITE -/

section Start

variable {port : PortField} {buf : Nat} {len : Word}

/-- A WRITE that has started with the count `c`. -/
def writeStart (s : State) (p : Port) (buf : Nat) (len : Word) (c : Nat) : Progress :=
  { Progress.start s p with
    port := { s.port p with
      txsrc := .mem, txbuf := buf, txlen := len.toNat, txc := c, txw := (c + 3) / 4
      txi := 0, txcur := 0, txword := 0, txs := .waitFifoEmpty, txsub := .checkEmpty }
    events := (List.range len.toNat).map fun k => .mrd (buf + k) (s.mem.read (buf + k)) }

/-- The count of a WRITE (R124). -/
def writeCount (s : State) (buf : Nat) (len : Word) : Nat := len.toNat + (memBytes s buf len.toNat).count lf

theorem exec_write_start (hp : Registered s port p) (hbuf : buf ≠ 0) (hlen : 0 < signedLen len)
    (hrange : buf + len.toNat ≤ 2 ^ s.cfg.addrW) (hfits : writeCount s buf len ≤ 2 ^ s.cfg.ncharW - 1) :
    exec (.write port buf len) s =
      .next ((writeStart s p buf len (writeCount s buf len)).state .write p s) := by
  rw [writeStartsItsTransmit s port p buf len hp hbuf hlen hrange hfits, port_eq_ofNat hp]
  rfl

theorem writeStart_txInv (hp : Registered s port p) (hbuf : buf ≠ 0) (hlen : 0 < signedLen len)
    (hrange : buf + len.toNat ≤ 2 ^ s.cfg.addrW) (hfits : writeCount s buf len ≤ 2 ^ s.cfg.ncharW - 1) :
    TxInv ((writeStart s p buf len (writeCount s buf len)).state .write p s) p := by
  have hcount : charCount (writeSource port p buf len s) p = writeCount s buf len := charCount_writeSource hrange
  have hstart := exec_write_start hp hbuf hlen hrange hfits
  rw [exec_write_passes hp hbuf hlen hrange, txRun_fits (by rw [hcount]; exact hfits)] at hstart
  rw [← Host.Outcome.next.inj hstart]
  exact started_txInv (.write port buf len hbuf hlen hrange) (by rw [hcount]; exact hfits)

/-- Before anything is packed, the stream to come is the expanded buffer. -/
theorem toCome_of_writeStart (hrange : buf + len.toNat ≤ 2 ^ s.cfg.addrW) {c : Nat} (hmem : g.mem = s.mem)
    {txs : TxState} {sub : TxSub} (hport : g.port = { (writeStart s p buf len c).port with txs := txs, txsub := sub }) :
    toCome (g.state .write p s) p = (memBytes s buf len.toNat).flatMap expand := by
  have hsame : SameSource p (writeSource 0 p buf len s) (g.state .write p s) :=
    ⟨rfl, hmem, by rw [state_port, writeSource_port, hport]; rfl, by rw [state_port, writeSource_port, hport]; rfl,
      by rw [state_port, writeSource_port, hport]; rfl⟩
  rw [toCome, hsame.physical, state_port, hport]
  exact congrArg (List.flatMap expand) (srcBytes_writeSource hrange)

theorem length_writeStream (s : State) (buf : Nat) (len : Word) :
    ((memBytes s buf len.toNat).flatMap expand).length = writeCount s buf len := by
  rw [length_flatMap_expand, writeCount, memBytes, List.length_map, List.length_range]

/-- What the events of the start and of the entry are seen to do. -/
theorem observed_entered (hwf : s.cfg.wf = true) (c : Nat) (e : EmptyCheck) (rest : List Word) :
    Observed p s (entered p s e rest (writeStart s p buf len c)).events []
      [.wr (regAddr s p .nchar) (BitVec.ofNat 32 c)] e.answers := by
  have hreads : Observed p s (writeStart s p buf len c).events [] [] [] :=
    observed_mem (List.forall_mem_map.2 fun _ _ => rfl)
  have hall := (hreads.append (observed_emptyCheck e)).append (observed_critical hwf c)
  simp only [List.nil_append, List.append_nil] at hall
  exact hall

/-- A WRITE that started runs to its response through any polls that end. -/
theorem run_write (hs : Ready s p) (hwf : s.cfg.wf = true) (hm : s.mem.wf = true) (hp : Registered s port p)
    (hbuf : buf ≠ 0) (hlen : 0 < signedLen len) (hrange : buf + len.toNat ≤ 2 ^ s.cfg.addrW)
    (hfits : writeCount s buf len ≤ 2 ^ s.cfg.ncharW - 1) {e : EmptyCheck} {qs : List Poll} {rest : List Word}
    (hqs : qs.length = (writeCount s buf len + 3) / 4) (he : e.ok s.cfg = true)
    (hqok : ∀ q ∈ qs, q.ok s.cfg.srTxrdy = true) (hans : s.answers = e.answers ++ (qs.flatMap Poll.answers ++ rest)) :
    ∃ (g : Progress) (ws : List Word),
      run (e.answers.length + 1 + ((qs.flatMap Poll.answers).length + 2 * qs.length + 1))
        ((writeStart s p buf len (writeCount s buf len)).state .write p s) = .next (g.final p s .success 0) ∧
      Observed p s g.events ws [.wr (regAddr s p .nchar) (BitVec.ofNat 32 (writeCount s buf len))]
        (e.answers ++ qs.flatMap Poll.answers) ∧
      ws.length = qs.length ∧
      (ws.flatMap lanes).take (writeCount s buf len) = (memBytes s buf len.toNat).flatMap expand ∧
      (∀ a, g.mem.read a =
        if buf ≤ a ∧ a < buf + len.toNat ∧ s.mem.read a = sentinel then lf else s.mem.read a) ∧
      g.answers = rest ∧ g.port.txs = .idle ∧ SameRx g.port (s.port p) := by
  have hinv := writeStart_txInv hp hbuf hlen hrange hfits
  have hentered := run_entered (g := writeStart s p buf len (writeCount s buf len)) hs rfl rfl he hans
  have hfirst := atWord_entered hm hinv rfl rfl rfl e (qs.flatMap Poll.answers ++ rest)
  have hobs := observed_entered (p := p) (buf := buf) (len := len) hwf (writeCount s buf len) e
    (qs.flatMap Poll.answers ++ rest)
  have hcome := toCome_of_writeStart (p := p) (g := entered p s e (qs.flatMap Poll.answers ++ rest)
    (writeStart s p buf len (writeCount s buf len))) hrange rfl rfl
  obtain ⟨g, ws, hwords, hsent, hlength⟩ :=
    run_words hs hwf qs hfirst ((Nat.zero_add _).trans hqs) hqok rfl
  obtain ⟨es, hes, hobs'⟩ := hsent.events
  have hat := hsent.atWord
  obtain ⟨m, es', hrestore, hes', hread⟩ := txRestore_final hat.mem hat.inv (by rw [hat.txs]; decide) hat.txsrc
  have hport := hsent.port
  have hend : g.port.txi = g.port.txw := by
    rw [hport]
    exact (Nat.zero_add _).trans (hlength.trans hqs)
  have hdrains := hsent.drains
  rw [toCome_eq_nil hat hend, hcome, Drains, length_writeStream, List.append_nil] at hdrains
  refine ⟨{ g with port := { g.port with txs := .idle, txsub := .none }, mem := m, events := g.events ++ es' }, ws,
    ?run, ?observed, hlength, hdrains, ?memory, List.append_cancel_left hsent.answers.symm, rfl, ?rx⟩
  case run =>
    rw [run_add hentered, run_add hwords, run_succ_next ((step_restore hs (.inr rfl) hat.txs
      (by rw [hat.txsub, if_neg (by omega)])).trans (congrArg _ hrestore)), run_zero]
  case observed =>
    have hall := (hobs.append hobs').append (observed_mem hes')
    simp only [List.nil_append, List.append_nil] at hall
    rw [← hes] at hall
    exact hall
  case memory =>
    intro a
    have hmarked := hsent.marked.restored a
    rw [hread a, hport]
    exact hmarked
  case rx => rw [SameRx, rxRegs, hport]; rfl

end Start

/-- Settles O33: the start, the entry of the section, one word per poll, and the restore pass. -/
theorem writeSendsItsBytesThroughAnyPolls : Obligations.WriteSendsItsBytesThroughAnyPolls := by
  intro s port p buf len e qs rest hwf hm hp hr hpin hmode hbuf hlen hrange stream c hfits hqs he hqok hans
  have hs := Ready.of_registered hp hr hpin hmode
  rw [List.append_assoc] at hans
  obtain ⟨g, ws, hrun, hobs, hlength, hlanes, hmem, hanswers, hidle, hrx⟩ :=
    run_write hs hwf hm hp hbuf hlen hrange hfits hqs he hqok hans
  have hall := hobs.append (observed_rsp 0x00 0)
  rw [List.append_nil, List.append_nil, List.append_nil] at hall
  refine ⟨_, g.final p s .success 0, g.events ++ [.rsp 0x00 0], exec_write_start hp hbuf hlen hrange hfits, ?run,
    rfl, ?length, ?lanes, length_writeStream s buf len, ?counts, ?reads, List.getLast?_concat, hmem, rfl, rfl, rfl,
    hanswers, hmode, hr, rfl, rfl, ?idle, ?rx, fun r hne => final_port_ne hne⟩
  case run =>
    rw [← hrun]
    congr 1
    omega
  case length => rw [hall.words, hlength]
  case lanes => rw [hall.words]; exact hlanes
  case counts => exact hall.counts
  case reads => exact hall.reads
  case idle => rw [final_port]; exact hidle
  case rx => rw [final_port]; exact hrx

/-! ### A device that is always ready -/

/-- The poll of a device that shows every bit at its first read. -/
def readyPoll : Poll := { waits := [], last := BitVec.allOnes 32 }

theorem getLsbD_allOnes_32 (k : Fin 32) : (BitVec.allOnes 32).getLsbD k.val = true := by
  rw [BitVec.getLsbD_allOnes, decide_eq_true k.isLt]

theorem flatMap_answers_readyPoll (n : Nat) :
    (List.replicate n readyPoll).flatMap Poll.answers = List.replicate n (BitVec.allOnes 32) := by
  rw [List.flatMap_replicate]
  exact List.flatten_replicate_singleton

/-- Settles O32: the case of O33 in which every poll ends at its first read. -/
theorem writeSendsItsExpandedBytes : Obligations.WriteSendsItsExpandedBytes := by
  intro s port p buf len rest hwf hm hp hr hpin hmode hbuf hlen hrange stream c w hfits hans
  have hready : ∀ q ∈ List.replicate w readyPoll, q.ok s.cfg.srTxrdy = true := fun q hq => by
    rw [List.eq_of_mem_replicate hq]
    exact getLsbD_allOnes_32 _
  obtain ⟨s1, t, es, hexec, hrun, htrace, hlength, hlanes, hstream, hcounts, -, hresult⟩ :=
    writeSendsItsBytesThroughAnyPolls s port p buf len { status := BitVec.allOnes 32, latch := none }
      (List.replicate w readyPoll) rest hwf hm hp hr hpin hmode hbuf hlen hrange hfits List.length_replicate
      (getLsbD_allOnes_32 _) hready (by rw [hans, flatMap_answers_readyPoll]; rfl)
  rw [flatMap_answers_readyPoll, List.length_replicate, List.length_replicate] at hrun
  rw [List.length_replicate] at hlength
  refine ⟨s1, t, es, hexec, ?_, htrace, hlength, hlanes, hstream, hcounts, hresult⟩
  rw [← hrun, EmptyCheck.answers, List.length_singleton]
  congr 1
  omega

end Sys2Proof.Machine
end
